-- ==== Sys2Proof/Word.lean ====
section
/-!
DEFINITION. The word types of the block (spec 00_scope.md R10; 10_state.md R20 to R30).
Bit 0 of every value is its least significant bit; all stored values are unsigned (R10).
-/

namespace Sys2Proof

/-- One octet (R10: "Octet and byte both mean 8 bits"). -/
abbrev Byte := BitVec 8

/-- An octet string in buffer order, lowest offset first (20_memory.md R50, R53). -/
abbrev Octets := List Byte

/-- A handler value of `HANDLER_BITS` = 32 bits, 0 being NULL (10_state.md R25, 00_scope.md R6). -/
abbrev Handler := BitVec 32

/-- A status or state code on a port: one 8-bit code space (30_encoding.md R100, 00_scope.md R15). -/
abbrev Status := BitVec 8

/-- A PAN identifier (10_state.md R36). -/
abbrev PanId := BitVec 16

/-- An address on the result or operand wires: a Short16 address is zero-extended (10_state.md R36, R37). -/
abbrev AddrWire := BitVec 64

/-- A time stamp of `TS_BITS` = 32 bits (10_state.md R30). -/
abbrev TimeStamp := BitVec 32

end Sys2Proof
end

