-- ==== Sys2Proof/Syntax.lean ====
section
/-!
DEFINITION. The commands of the block: one constructor of `Instr` per row of spec/opcode_table.json
(30_encoding.md R97), with the operands R97 lists and the records of 10_state.md R36 and R37.
-/

namespace Sys2Proof

/-- The two registry instances, `U` and `L` (10_state.md R25; 41_sap_registry.md R151). -/
inductive Inst where
  | upper
  | lower
  deriving DecidableEq, Repr, Inhabited

/-- The six services, in the order of their numbers (30_encoding.md R96). -/
inductive Svc where
  | data
  | cca
  | ed
  | get
  | setTrx
  | set
  deriving DecidableEq, Repr, Inhabited

/-- The three roles, in the order of their numbers (30_encoding.md R96). -/
inductive Role where
  | request
  | confirm
  | indication
  deriving DecidableEq, Repr, Inhabited

/-- The kind of a pending transaction: 0 = data, 1 = command (10_state.md R30). -/
inductive TxKind where
  | data
  | command
  deriving DecidableEq, Repr, Inhabited

/-- The encode request record, operand of ENCODE and of DATA.req (10_state.md R37).
`payloadLen` is the length of `payload`. -/
structure EncodeRequest where
  handle    : Byte
  dstMode   : Byte
  dstPan    : PanId
  dstAddr   : AddrWire
  srcMode   : Byte
  srcPan    : PanId
  srcAddr   : AddrWire
  txOptions : BitVec 4
  intraPan  : Bool
  payload   : Octets
  deriving DecidableEq, Repr, Inhabited

/-- A command: the command byte's meaning together with its operand record (30_encoding.md R97).
For DECODE and DATA.ind the operand `bufLen` is the length of `rxbuf`: RXBUF has content only at
offsets below `bufLen` (20_memory.md R51). -/
inductive Instr where
  /-- DATA.req, 0x00 (R175). -/
  | dataReq (r : EncodeRequest)
  /-- CCA.req, 0x04 (R184). -/
  | ccaReq
  /-- ED.req, 0x08 (R187). -/
  | edReq
  /-- GET.req, 0x0C (R200). -/
  | getReq (attr : Byte)
  /-- SETTRX.req, 0x10 (R170). -/
  | setTrxReq (target : Status)
  /-- SET.req, 0x14 (R205). -/
  | setReq (attr : Byte) (value : BitVec 32)
  /-- DATA.cnf, 0x81 (R181). -/
  | dataCnf (status : Status)
  /-- DATA.ind, 0x82 (R182). -/
  | dataInd (rxbuf : Octets) (declaredLength : Byte)
  /-- CCA.cnf, 0x85 (R185). -/
  | ccaCnf (status : Status)
  /-- ED.cnf, 0x89 (R188). -/
  | edCnf (status : Status) (energyLevel : Byte)
  /-- GET.cnf, 0x8D (R202). -/
  | getCnf (status : Status) (attr : Byte) (value : BitVec 32)
  /-- SETTRX.cnf, 0x91 (R173). -/
  | setTrxCnf (status : Status)
  /-- SET.cnf, 0x95 (R209). -/
  | setCnf (status : Status) (attr : Byte)
  /-- BIND on instance `U`, 0x20 + 4*svc + role (R150). -/
  | bindU (svc : Svc) (role : Role) (handler : Handler)
  /-- BIND on instance `L`, 0xA0 + 4*svc + role (R150). -/
  | bindL (svc : Svc) (role : Role) (handler : Handler)
  /-- DECODE, 0x40 (R110). -/
  | decodeFrame (rxbuf : Octets) (declaredLength : Byte)
  /-- ENCODE, 0x41 (R125). -/
  | encodeFrame (r : EncodeRequest)
  /-- PTQ.ADD, 0x42 (R221). -/
  | ptqAdd (handle : Byte) (kind : TxKind) (ackRequired : Bool)
  /-- PTQ.REMOVE, 0x43 (R223); PURGE is the same command (30_encoding.md R106). -/
  | ptqRemove (handle : Byte)
  deriving DecidableEq, Repr, Inhabited

end Sys2Proof
end

