-- ==== Sys2Proof/Config.lean ====
section
/-!
DEFINITION. Constants the source fixes (spec 00_scope.md R5), the parameters it leaves open (R6, R7),
and the free values. An open parameter or a free value has no body: no proof can see what it is.
-/

namespace Sys2Proof

/-- The build-time frame-format variant (R7, D46). -/
inductive Variant where
  | baseline
  | extended
  deriving DecidableEq, Repr, Inhabited

namespace Config

/-- R5 `PTQ_SLOTS`: slots of the pending transaction table. -/
def ptqSlots : Nat := 10
/-- R5 `MAX_PAYLOAD`: largest payload length a DATA request may carry. -/
def maxPayload : Nat := 127
/-- R5 `MIN_HEADER`: shortest header. -/
def minHeader : Nat := 3
/-- R5 `PREAMBLE`: the PPDU preamble, always zero. -/
def preamble : Octets := [0x00#8, 0x00#8, 0x00#8, 0x00#8]
/-- R5 `SFD`: the start-of-frame delimiter. -/
def sfd : Byte := 0xA7#8
/-- R5 `PHR_LEN_MAX`: cap of the 7-bit frame-length field. -/
def phrLenMax : Nat := 127
/-- R5 `CHANNEL_MAX`: largest current-channel value. -/
def channelMax : Nat := 26
/-- R5 `CHANNEL_BITS`: width of the supported-channel bitmap. -/
def channelBits : Nat := 27
/-- R5 `TXPOWER_MAX`: largest accepted transmit-power value. -/
def txPowerMax : Nat := 0xBF
/-- R5 `CCAMODE_MAX`: largest accepted CCA-mode value. -/
def ccaModeMax : Nat := 0xBF
/-- R5 `LEN_BIAS`: the "- 1 (trailing length-byte convention)" of the payload-length formula. -/
def lenBias : Nat := 1
/-- R5 `FCS_LEN`: octets of the frame check sequence. -/
def fcsLen : Nat := 2
/-- R6 `RXBUF_SIZE`: capacity of the receive buffer (D16). -/
def rxBufSize : Nat := 258
/-- R37, R50: the longest payload an encode request can carry (`payloadLen` is 8 bits). -/
def requestPayloadMax : Nat := 255

/-- R7, OPEN: `VARIANT`, fixed when the hardware is built (log 5). -/
opaque variant : Variant
/-- R134, OPEN: `MANUAL_FCS`, fixed when the hardware is built (D17, log 5). -/
opaque manualFcs : Bool
/-- R134, OPEN: `Fcs16`, the collaborator checksum, of which nothing is assumed but that it is a
function of the octets before the footer (D17, log 5). -/
opaque fcs16 : Octets → BitVec 16
/-- FREE VALUE: what `timeNow` shows at the n-th sampling beyond the samples the state lists
(R42: "a free input each time it is sampled, with no law"; log 4). -/
opaque freeTime : Nat → TimeStamp

end Config

end Sys2Proof
end

