-- ==== Sys2Proof/WellFormed.lean ====
section
/-!
DEFINITION. Which terms of `Instr` are commands the block can be handed: the two length operands fit
their widths and capacities (10_state.md R37; 20_memory.md R50). Every other operand is bounded by its type.
-/

namespace Sys2Proof

/-- R37: `payloadLen` is 8 bits, 0..255. -/
def EncodeRequest.wellFormed (r : EncodeRequest) : Bool :=
  decide (r.payload.length ≤ Config.requestPayloadMax)

/-- R50: RXBUF holds at most `RXBUF_SIZE` = 258 octets, and `bufLen` lies in 0..258. -/
def rxBufWellFormed (rxbuf : Octets) : Bool :=
  decide (rxbuf.length ≤ Config.rxBufSize)

/-- A well-formed command. -/
def Instr.wellFormed : Instr → Bool
  | .dataReq r => r.wellFormed
  | .ccaReq => true
  | .edReq => true
  | .getReq _ => true
  | .setTrxReq _ => true
  | .setReq _ _ => true
  | .dataCnf _ => true
  | .dataInd rxbuf _ => rxBufWellFormed rxbuf
  | .ccaCnf _ => true
  | .edCnf _ _ => true
  | .getCnf _ _ _ => true
  | .setTrxCnf _ => true
  | .setCnf _ _ => true
  | .bindU _ _ _ => true
  | .bindL _ _ _ => true
  | .decodeFrame rxbuf _ => rxBufWellFormed rxbuf
  | .encodeFrame r => r.wellFormed
  | .ptqAdd _ _ _ => true
  | .ptqRemove _ => true

end Sys2Proof
end

