-- ==== Sys2Proof/Decode.lean ====
section
/-!
DEFINITION. From octets to commands and back. The command byte is R95 to R97 and R99 of
30_encoding.md. The spec gives each command an operand record and its fields' widths and no octet
layout for the record: the layout here is the model's (DESIGN CHOICE, log 1): after the command byte,
the operands in the order of the table's row, each in whole octets, least significant octet first;
a length stands before the octets it counts (`bufLen` in two octets, then `declaredLength`, then RXBUF).
-/

namespace Sys2Proof

/-! ## Octet order (20_memory.md R52; 00_scope.md R11) -/

/-- R11 `MemWrite`: the `n` octets of `v`, least significant first; higher bits of `v` are dropped. -/
def leOctets : Nat → Nat → Octets
  | 0, _ => []
  | n + 1, v => BitVec.ofNat 8 v :: leOctets n (v / 256)

/-- R11 `MemRead`: the unsigned value of an octet string, the octet at the lowest offset least significant. -/
def leValue : Octets → Nat
  | [] => 0
  | b :: bs => b.toNat + 256 * leValue bs

/-! ## Command bytes (R95, R96, R97, R99) -/

/-- What a legal command byte selects. -/
inductive Opcode where
  | dataReq
  | ccaReq
  | edReq
  | getReq
  | setTrxReq
  | setReq
  | dataCnf
  | dataInd
  | ccaCnf
  | edCnf
  | getCnf
  | setTrxCnf
  | setCnf
  | bind (inst : Inst) (svc : Svc) (role : Role)
  | decodeFrame
  | encodeFrame
  | ptqAdd
  | ptqRemove
  deriving DecidableEq, Repr

/-- Service numbers (R96); also used by the read port (10_state.md R45). -/
def Svc.number : Svc → Nat
  | .data => 0
  | .cca => 1
  | .ed => 2
  | .get => 3
  | .setTrx => 4
  | .set => 5

/-- Role numbers (R96). -/
def Role.number : Role → Nat
  | .request => 0
  | .confirm => 1
  | .indication => 2

/-- Instance numbers: `U` = 0, `L` = 1 (R95: for BIND the side bit is the registry instance; R45). -/
def Inst.number : Inst → Nat
  | .upper => 0
  | .lower => 1

/-- R96: 6 and 7 are reserved. -/
def Svc.ofNumber : Nat → Option Svc
  | 0 => some .data
  | 1 => some .cca
  | 2 => some .ed
  | 3 => some .get
  | 4 => some .setTrx
  | 5 => some .set
  | _ => none

/-- R96: 3 is reserved. -/
def Role.ofNumber : Nat → Option Role
  | 0 => some .request
  | 1 => some .confirm
  | 2 => some .indication
  | _ => none

/-- R95 `cmd[7]`: 0 the upper layer (for BIND: instance `U`), 1 the lower layer (instance `L`). -/
def cmdSide (cmd : Byte) : Inst :=
  if cmd.getLsbD 7 then .lower else .upper

/-- R95 `cmd[6:5]`: 0 SAP primitive, 1 BIND, 2 direct unit operation, 3 reserved. -/
def cmdClass (cmd : Byte) : Nat := (cmd.extractLsb' 5 2).toNat

/-- R95 `cmd[4:2]`: the service number. -/
def cmdSvc (cmd : Byte) : Nat := (cmd.extractLsb' 2 3).toNat

/-- R95 `cmd[1:0]`: the role number. -/
def cmdRole (cmd : Byte) : Nat := (cmd.extractLsb' 0 2).toNat

/-- The Request a service's upper side may issue (R97, R99). -/
def Opcode.ofRequest : Svc → Opcode
  | .data => .dataReq
  | .cca => .ccaReq
  | .ed => .edReq
  | .get => .getReq
  | .setTrx => .setTrxReq
  | .set => .setReq

/-- The Confirm a service's lower side may issue (R97, R99). -/
def Opcode.ofConfirm : Svc → Opcode
  | .data => .dataCnf
  | .cca => .ccaCnf
  | .ed => .edCnf
  | .get => .getCnf
  | .setTrx => .setTrxCnf
  | .set => .setCnf

/-- Class 0 (R99): from the upper side only Requests; from the lower side only Confirms and the one
Indication, of the Data service. -/
def Opcode.ofPrimitive (side : Inst) (svc : Svc) (role : Role) : Option Opcode :=
  match side, role with
  | .upper, .request => some (Opcode.ofRequest svc)
  | .lower, .confirm => some (Opcode.ofConfirm svc)
  | .lower, .indication => if svc = .data then some .dataInd else none
  | .upper, .confirm => none
  | .upper, .indication => none
  | .lower, .request => none

/-- Class 2 (R97, R99): four operations, from the upper side; `cmd[4:0]` is the operation number. -/
def Opcode.ofUnit (side : Inst) (op : Nat) : Option Opcode :=
  match side, op with
  | .upper, 0 => some .decodeFrame
  | .upper, 1 => some .encodeFrame
  | .upper, 2 => some .ptqAdd
  | .upper, 3 => some .ptqRemove
  | _, _ => none

/-- The command map of R97; `none` is an illegal byte (R99). -/
def Opcode.ofByte (cmd : Byte) : Option Opcode :=
  match cmdClass cmd with
  | 0 =>
    match Svc.ofNumber (cmdSvc cmd), Role.ofNumber (cmdRole cmd) with
    | some svc, some role => Opcode.ofPrimitive (cmdSide cmd) svc role
    | _, _ => none
  | 1 =>
    match Svc.ofNumber (cmdSvc cmd), Role.ofNumber (cmdRole cmd) with
    | some svc, some role => some (.bind (cmdSide cmd) svc role)
    | _, _ => none
  | 2 => Opcode.ofUnit (cmdSide cmd) (cmd.extractLsb' 0 5).toNat
  | _ => none

/-- The command byte of each row of R97, written from the table's own numbers. -/
def Opcode.toByte : Opcode → Byte
  | .dataReq => 0x00#8
  | .ccaReq => 0x04#8
  | .edReq => 0x08#8
  | .getReq => 0x0C#8
  | .setTrxReq => 0x10#8
  | .setReq => 0x14#8
  | .dataCnf => 0x81#8
  | .dataInd => 0x82#8
  | .ccaCnf => 0x85#8
  | .edCnf => 0x89#8
  | .getCnf => 0x8D#8
  | .setTrxCnf => 0x91#8
  | .setCnf => 0x95#8
  | .bind .upper svc role => BitVec.ofNat 8 (0x20 + 4 * svc.number + role.number)
  | .bind .lower svc role => BitVec.ofNat 8 (0xA0 + 4 * svc.number + role.number)
  | .decodeFrame => 0x40#8
  | .encodeFrame => 0x41#8
  | .ptqAdd => 0x42#8
  | .ptqRemove => 0x43#8

/-! ## Operand records -/

/-- Why an octet string is no command. -/
inductive CommandError where
  /-- The empty string: there is no command byte. -/
  | noCommandByte
  /-- The command byte is one of R99. -/
  | illegalCommand (cmd : Byte)
  /-- The string ends before the operand record does (log 15). -/
  | operandsMissing
  /-- An operand's octets hold a value its width or range does not admit: a 1-bit or 4-bit operand
  with a higher bit set, or `bufLen` above 258 (R50, R97; log 15). -/
  | operandOutOfRange
  deriving DecidableEq, Repr

/-- Take `n` operand octets; the octets after them are not looked at. -/
def readOctets : Nat → Octets → Except CommandError (Octets × Octets)
  | 0, bs => .ok ([], bs)
  | _ + 1, [] => .error .operandsMissing
  | n + 1, b :: bs => do
    let (o, bs) ← readOctets n bs
    .ok (b :: o, bs)

/-- Take an `n`-octet operand as a number. -/
def readValue (n : Nat) (bs : Octets) : Except CommandError (Nat × Octets) := do
  let (o, bs) ← readOctets n bs
  .ok (leValue o, bs)

/-- An 8-bit operand. -/
def read8 (bs : Octets) : Except CommandError (BitVec 8 × Octets) := do
  let (v, bs) ← readValue 1 bs
  .ok (BitVec.ofNat 8 v, bs)

/-- A 16-bit operand. -/
def read16 (bs : Octets) : Except CommandError (BitVec 16 × Octets) := do
  let (v, bs) ← readValue 2 bs
  .ok (BitVec.ofNat 16 v, bs)

/-- A 32-bit operand. -/
def read32 (bs : Octets) : Except CommandError (BitVec 32 × Octets) := do
  let (v, bs) ← readValue 4 bs
  .ok (BitVec.ofNat 32 v, bs)

/-- A 64-bit operand. -/
def read64 (bs : Octets) : Except CommandError (BitVec 64 × Octets) := do
  let (v, bs) ← readValue 8 bs
  .ok (BitVec.ofNat 64 v, bs)

/-- A 4-bit operand (`txOptions`). -/
def read4 (bs : Octets) : Except CommandError (BitVec 4 × Octets) := do
  let (v, bs) ← readValue 1 bs
  if v < 16 then .ok (BitVec.ofNat 4 v, bs) else .error .operandOutOfRange

/-- A 1-bit operand (`intraPan`, `ackRequired`). -/
def read1 (bs : Octets) : Except CommandError (Bool × Octets) := do
  let (v, bs) ← readValue 1 bs
  match v with
  | 0 => .ok (false, bs)
  | 1 => .ok (true, bs)
  | _ => .error .operandOutOfRange

/-- The `kind` operand: 0 = data, 1 = command (10_state.md R30). -/
def readKind (bs : Octets) : Except CommandError (TxKind × Octets) := do
  let (b, bs) ← read1 bs
  .ok (if b then .command else .data, bs)

/-- The encode request record (10_state.md R37), in the order of the table's row for DATA.req. -/
def readRequest (bs : Octets) : Except CommandError (EncodeRequest × Octets) := do
  let (handle, bs) ← read8 bs
  let (dstMode, bs) ← read8 bs
  let (dstPan, bs) ← read16 bs
  let (dstAddr, bs) ← read64 bs
  let (srcMode, bs) ← read8 bs
  let (srcPan, bs) ← read16 bs
  let (srcAddr, bs) ← read64 bs
  let (txOptions, bs) ← read4 bs
  let (intraPan, bs) ← read1 bs
  let (payloadLen, bs) ← readValue 1 bs
  let (payload, bs) ← readOctets payloadLen bs
  .ok ({ handle, dstMode, dstPan, dstAddr, srcMode, srcPan, srcAddr, txOptions, intraPan, payload }, bs)

/-- `bufLen`, `declaredLength` and RXBUF (R97), the operands of DECODE and DATA.ind. -/
def readRxBuf (bs : Octets) : Except CommandError ((Octets × Byte) × Octets) := do
  let (bufLen, bs) ← readValue 2 bs
  if bufLen ≤ Config.rxBufSize then
    let (declaredLength, bs) ← read8 bs
    let (rxbuf, bs) ← readOctets bufLen bs
    .ok ((rxbuf, declaredLength), bs)
  else
    .error .operandOutOfRange

/-- The operand record of each command (R97). -/
def readInstr (op : Opcode) (bs : Octets) : Except CommandError (Instr × Octets) :=
  match op with
  | .dataReq => do
    let (r, bs) ← readRequest bs
    .ok (.dataReq r, bs)
  | .ccaReq => .ok (.ccaReq, bs)
  | .edReq => .ok (.edReq, bs)
  | .getReq => do
    let (attr, bs) ← read8 bs
    .ok (.getReq attr, bs)
  | .setTrxReq => do
    let (target, bs) ← read8 bs
    .ok (.setTrxReq target, bs)
  | .setReq => do
    let (attr, bs) ← read8 bs
    let (value, bs) ← read32 bs
    .ok (.setReq attr value, bs)
  | .dataCnf => do
    let (status, bs) ← read8 bs
    .ok (.dataCnf status, bs)
  | .dataInd => do
    let (rx, bs) ← readRxBuf bs
    .ok (.dataInd rx.1 rx.2, bs)
  | .ccaCnf => do
    let (status, bs) ← read8 bs
    .ok (.ccaCnf status, bs)
  | .edCnf => do
    let (status, bs) ← read8 bs
    let (energyLevel, bs) ← read8 bs
    .ok (.edCnf status energyLevel, bs)
  | .getCnf => do
    let (status, bs) ← read8 bs
    let (attr, bs) ← read8 bs
    let (value, bs) ← read32 bs
    .ok (.getCnf status attr value, bs)
  | .setTrxCnf => do
    let (status, bs) ← read8 bs
    .ok (.setTrxCnf status, bs)
  | .setCnf => do
    let (status, bs) ← read8 bs
    let (attr, bs) ← read8 bs
    .ok (.setCnf status attr, bs)
  | .bind .upper svc role => do
    let (handler, bs) ← read32 bs
    .ok (.bindU svc role handler, bs)
  | .bind .lower svc role => do
    let (handler, bs) ← read32 bs
    .ok (.bindL svc role handler, bs)
  | .decodeFrame => do
    let (rx, bs) ← readRxBuf bs
    .ok (.decodeFrame rx.1 rx.2, bs)
  | .encodeFrame => do
    let (r, bs) ← readRequest bs
    .ok (.encodeFrame r, bs)
  | .ptqAdd => do
    let (handle, bs) ← read8 bs
    let (kind, bs) ← readKind bs
    let (ackRequired, bs) ← read1 bs
    .ok (.ptqAdd handle kind ackRequired, bs)
  | .ptqRemove => do
    let (handle, bs) ← read8 bs
    .ok (.ptqRemove handle, bs)

/-- The command an octet string begins with, and the octets after its operand record, which the
block does not look at (log 1). Total: every other string is rejected by name. -/
def decode : Octets → Except CommandError (Instr × Octets)
  | [] => .error .noCommandByte
  | cmd :: bs =>
    match Opcode.ofByte cmd with
    | none => .error (.illegalCommand cmd)
    | some op => readInstr op bs

/-! ## Encoder -/

/-- Which row of R97 a command belongs to. -/
def Instr.opcode : Instr → Opcode
  | .dataReq _ => .dataReq
  | .ccaReq => .ccaReq
  | .edReq => .edReq
  | .getReq _ => .getReq
  | .setTrxReq _ => .setTrxReq
  | .setReq _ _ => .setReq
  | .dataCnf _ => .dataCnf
  | .dataInd _ _ => .dataInd
  | .ccaCnf _ => .ccaCnf
  | .edCnf _ _ => .edCnf
  | .getCnf _ _ _ => .getCnf
  | .setTrxCnf _ => .setTrxCnf
  | .setCnf _ _ => .setCnf
  | .bindU svc role _ => .bind .upper svc role
  | .bindL svc role _ => .bind .lower svc role
  | .decodeFrame _ _ => .decodeFrame
  | .encodeFrame _ => .encodeFrame
  | .ptqAdd _ _ _ => .ptqAdd
  | .ptqRemove _ => .ptqRemove

/-- The octets of a bit vector of `n` octets, least significant first. -/
def octetsOf {w : Nat} (n : Nat) (v : BitVec w) : Octets := leOctets n v.toNat

/-- A 1-bit operand in one octet. -/
def bitOctet (b : Bool) : Octets := [if b then 1#8 else 0#8]

/-- The kind code (10_state.md R30) in one octet. -/
def kindOctet (k : TxKind) : Octets :=
  match k with
  | .data => [0#8]
  | .command => [1#8]

/-- The octets of an encode request record. -/
def encodeRequest (r : EncodeRequest) : Octets :=
  octetsOf 1 r.handle ++ octetsOf 1 r.dstMode ++ octetsOf 2 r.dstPan ++ octetsOf 8 r.dstAddr ++
  octetsOf 1 r.srcMode ++ octetsOf 2 r.srcPan ++ octetsOf 8 r.srcAddr ++ octetsOf 1 r.txOptions ++
  bitOctet r.intraPan ++ leOctets 1 r.payload.length ++ r.payload

/-- The octets of `bufLen`, `declaredLength` and RXBUF. -/
def encodeRxBuf (rxbuf : Octets) (declaredLength : Byte) : Octets :=
  leOctets 2 rxbuf.length ++ octetsOf 1 declaredLength ++ rxbuf

/-- The operand octets of a command. -/
def encodeOperands : Instr → Octets
  | .dataReq r => encodeRequest r
  | .ccaReq => []
  | .edReq => []
  | .getReq attr => octetsOf 1 attr
  | .setTrxReq target => octetsOf 1 target
  | .setReq attr value => octetsOf 1 attr ++ octetsOf 4 value
  | .dataCnf status => octetsOf 1 status
  | .dataInd rxbuf declaredLength => encodeRxBuf rxbuf declaredLength
  | .ccaCnf status => octetsOf 1 status
  | .edCnf status energyLevel => octetsOf 1 status ++ octetsOf 1 energyLevel
  | .getCnf status attr value => octetsOf 1 status ++ octetsOf 1 attr ++ octetsOf 4 value
  | .setTrxCnf status => octetsOf 1 status
  | .setCnf status attr => octetsOf 1 status ++ octetsOf 1 attr
  | .bindU _ _ handler => octetsOf 4 handler
  | .bindL _ _ handler => octetsOf 4 handler
  | .decodeFrame rxbuf declaredLength => encodeRxBuf rxbuf declaredLength
  | .encodeFrame r => encodeRequest r
  | .ptqAdd handle kind ackRequired => octetsOf 1 handle ++ kindOctet kind ++ bitOctet ackRequired
  | .ptqRemove handle => octetsOf 1 handle

/-- The octets of a well-formed command: its command byte and its operand record. -/
def encode (i : Instr) : Octets := i.opcode.toByte :: encodeOperands i

/-! ## The host's words -/

/-- The longest command: the command byte, the 26 octets of an encode request before its payload, and
255 payload octets. -/
def longestCommand : Nat := 282

/-- The low `nbits` bits of `w`, the first octet in bits 7..0, with zeros above up to the longest command. -/
def wordOctets (nbits w : Nat) : Octets := leOctets longestCommand (w % 2 ^ nbits)

/-- The command the decoder reads from an instruction whose bits are `w`, numbered as
spec/opcode_table.json numbers them. -/
def decodeTableWord (nbits w : Nat) : Option Instr :=
  match decode (wordOctets nbits w) with
  | .ok (i, _) => some i
  | .error _ => none

end Sys2Proof
end

