-- ==== Sys2Proof/Machine/State.lean ====
section
/-!
DEFINITION. The state of the block and its surroundings, as plain data. The block's own state is
exactly the list of 10_state.md R20; beside it stand the outside's inputs, the outputs, the build-time
parameters and the ghost bits of 70_reset_and_hazards.md R271, each marked as the model's own.
-/

namespace Sys2Proof
namespace Machine

/-! ## The block's registers (10_state.md R20) -/

/-- The six transceiver states (10_state.md R21): "Exactly one value holds at any time". Their codes
on the ports are `TrxState.code` (30_encoding.md R100; log 12). -/
inductive TrxState where
  | busyRx
  | busyTx
  | forceTrxOff
  | rxOn
  | trxOff
  | txOn
  deriving DecidableEq, Repr, Inhabited

/-- The three slots of one service (10_state.md R25). -/
structure Triple where
  request    : Handler
  confirm    : Handler
  indication : Handler
  deriving DecidableEq, Repr, Inhabited

/-- One registry instance: a triple of slots per service (10_state.md R25). -/
structure Registry where
  data   : Triple
  cca    : Triple
  ed     : Triple
  get    : Triple
  setTrx : Triple
  set    : Triple
  deriving DecidableEq, Repr, Inhabited

/-- The PIB attribute store (10_state.md R28). -/
structure Pib where
  currentChannel    : BitVec 8
  channelsSupported : BitVec 27
  transmitPower     : BitVec 8
  ccaMode           : BitVec 8
  deriving DecidableEq, Repr, Inhabited

/-- One entry of the pending transaction table (10_state.md R30). -/
structure PtqEntry where
  handle      : Byte
  kind        : TxKind
  ackRequired : Bool
  timestamp   : TimeStamp
  deriving DecidableEq, Repr, Inhabited

/-! ## Records and results (10_state.md R36) -/

/-- The addressing modes a Frame can have (10_state.md R36: "never 1 in a Frame"). -/
inductive AddrMode where
  | absent
  | short16
  | extended64
  deriving DecidableEq, Repr, Inhabited

/-- The auxiliary security header (30_encoding.md R81); `keyIdLen` is the length of `keyId`. -/
structure AuxHeader where
  secControl   : Byte
  frameCounter : BitVec 32
  keyId        : Octets
  deriving DecidableEq, Repr, Inhabited

/-- The Frame record (10_state.md R36). The PAN and address fields are the result wires, 0 where the
mode is Absent (D13; log 13); `payloadLen` is the length of `payload`, `auxPresent` says whether `aux`
is there. -/
structure Frame where
  fc              : BitVec 16
  frameType       : BitVec 3
  securityEnabled : Bool
  framePending    : Bool
  ackRequest      : Bool
  intraPan        : Bool
  dstMode         : AddrMode
  srcMode         : AddrMode
  frameVersion    : BitVec 2
  seq             : Byte
  dstPan          : PanId
  dstAddr         : AddrWire
  srcPan          : PanId
  srcAddr         : AddrWire
  aux             : Option AuxHeader
  headerLen       : Nat
  payload         : Octets
  fcs             : BitVec 16
  lqi             : Byte
  rssi            : Byte
  deriving DecidableEq, Repr, Inhabited

/-- The three decode errors (60_exceptions.md R230). -/
inductive DecodeError where
  | truncated
  | invalidAddressing
  | malformedLength
  deriving DecidableEq, Repr, Inhabited

/-! ## Outputs: OutCall events and completions (00_scope.md R13) -/

/-- The arguments of `U.DATA.ind` (30_encoding.md R104). -/
structure DataIndication where
  srcMode      : AddrMode
  srcPan       : PanId
  srcAddr      : AddrWire
  dstMode      : AddrMode
  dstPan       : PanId
  dstAddr      : AddrWire
  payloadLen   : Byte
  payload      : Octets
  linkQuality  : Byte
  securityUsed : Bool
  deriving DecidableEq, Repr, Inhabited

/-- The thirteen kinds of OutCall, with their arguments (30_encoding.md R104). -/
inductive OutArgs where
  /-- `U.DATA.cnf` -/
  | dataConfirm (status : Status)
  /-- `U.DATA.ind` -/
  | dataIndication (ind : DataIndication)
  /-- `U.CCA.cnf` -/
  | ccaConfirm (status : Status)
  /-- `U.ED.cnf` -/
  | edConfirm (status : Status) (energyLevel : Byte)
  /-- `U.GET.cnf` -/
  | getConfirm (status : Status) (attr : Byte) (value : BitVec 32)
  /-- `U.SETTRX.cnf` -/
  | setTrxConfirm (status : Status)
  /-- `U.SET.cnf` -/
  | setConfirm (status : Status) (attr : Byte)
  /-- `L.DATA.req` -/
  | dataRequest (ppdu : Octets) (ppduLen : BitVec 9)
  /-- `L.CCA.req` -/
  | ccaRequest
  /-- `L.ED.req` -/
  | edRequest
  /-- `L.GET.req` -/
  | getRequest (attr : Byte)
  /-- `L.SETTRX.req` -/
  | setTrxRequest (target : Status)
  /-- `L.SET.req` -/
  | setRequest (attr : Byte) (value : BitVec 32)
  deriving DecidableEq, Repr, Inhabited

/-- An OutCall event: the handler value of the slot it went through, and the arguments (R104). -/
structure OutCall where
  handler : Handler
  args    : OutArgs
  deriving DecidableEq, Repr, Inhabited

/-- The completion record of a command (00_scope.md R13, 60_exceptions.md R232). -/
inductive Completion where
  /-- `None` -/
  | none
  /-- DATA.ind succeeded. -/
  | ok
  /-- DECODE succeeded, with the Frame. -/
  | frame (f : Frame)
  /-- DECODE or DATA.ind failed. -/
  | decodeError (e : DecodeError)
  /-- ENCODE, with the MPDU and its length. -/
  | mpdu (octets : Octets) (mpduLen : BitVec 9)
  /-- PTQ.ADD stored the entry. -/
  | stored
  /-- PTQ.ADD found the table full. -/
  | droppedFull
  /-- PTQ.REMOVE removed an entry. -/
  | found
  /-- PTQ.REMOVE found no such handle. -/
  | notFound
  /-- The command byte was illegal (R156). -/
  | cmdIllegal
  deriving DecidableEq, Repr, Inhabited

/-- What the outside sees of a run, besides the registers (00_scope.md R13; log 10). -/
inductive Event where
  | out (call : OutCall)
  | completed (c : Completion)
  deriving DecidableEq, Repr, Inhabited

/-! ## Inputs (00_scope.md R8, R12; log 2, log 4, log 9) -/

/-- What the outside presents to the block between commands: a command, as its octets, or the reset
input (70_reset_and_hazards.md R260). -/
inductive Input where
  | reset
  | command (octets : Octets)
  deriving DecidableEq, Repr, Inhabited

/-- What a called handler does (00_scope.md R12): the commands it issues, in order, each as its octets,
and whether it then returns (41_sap_registry.md R159; log 3). -/
structure Reply where
  commands : List Octets
  returns  : Bool
  deriving DecidableEq, Repr, Inhabited

/-- The outside of the block, as the inputs still to come. None of it is state of the block (R42). -/
structure Env where
  /-- Commands and resets presented and not yet taken, first one first. -/
  inbox       : List Input
  /-- What the handlers called from now on do, one reply per OutCall in the order of the calls; when
  the list is used up, every further handler returns without issuing a command (log 2). -/
  replies     : List Reply
  /-- What `timeNow` shows at the samplings to come (R42); beyond it the value is free (log 4). -/
  timeInput   : List TimeStamp
  /-- How many samplings have gone beyond `timeInput`. -/
  timeSamples : Nat
  deriving DecidableEq, Repr, Inhabited

/-- The build-time parameters of the machine (00_scope.md R6, R7); never written (log 5). -/
structure Build where
  variant   : Variant
  manualFcs : Bool
  deriving DecidableEq, Repr, Inhabited

/-! ## Ghost bits (70_reset_and_hazards.md R271; log 6, log 17) -/

/-- One ghost bit per service. -/
structure InFlight where
  data   : Bool
  cca    : Bool
  ed     : Bool
  get    : Bool
  setTrx : Bool
  set    : Bool
  deriving DecidableEq, Repr, Inhabited

/-- The ghost state, outside the block's own: nothing the block does depends on it. A request is in
flight "from the moment its Request is forwarded to the driver until the driver's Confirm for that service
has been processed" (R271): its service's bit is in `inFlight` until the Confirm comes, and in `confirming`
while the Confirm is processed. `doubleIssue` says that the precondition "one request in flight per slot"
has been broken at some point. -/
structure Ghost where
  inFlight    : InFlight
  confirming  : InFlight
  doubleIssue : Bool
  deriving DecidableEq, Repr, Inhabited

/-! ## The state -/

/-- The state: the registers of 10_state.md R20 (`trxState` to `ptq`), then the model's own fields.
`ptq` lists the valid entries in insertion order; `ptq.count` is its length (44_ptq.md R220, R224; log 11). -/
structure State where
  trxState   : TrxState
  dsn        : BitVec 8
  dataStatus : Status
  txHandle   : BitVec 8
  upper      : Registry
  lower      : Registry
  pib        : Pib
  ptq        : List PtqEntry
  build      : Build
  env        : Env
  events     : List Event
  ghost      : Ghost
  deriving DecidableEq, Repr

/-- Why the machine stops. -/
inductive Fault where
  /-- A called handler does not return: "a handler that never returns hangs the command that called it"
  (R159, R285, U17). Raised by the call of a handler whose reply says so. SAFE: the hardware hangs too
  (log 3). -/
  | handlerNeverReturned
  deriving DecidableEq, Repr

/-- Why the model gives no meaning. -/
inductive Refusal where
  /-- The instruction has no meaning in this model yet. SAFE. No arm of `exec` answers so. -/
  | notModelled (mnemonic : String)
  /-- An octet string with no command byte was presented, by the outside or by a handler. SAFE: it is no
  command of the block (log 15). -/
  | noCommandByte
  /-- The octets of a command end before its operand record does. SAFE: not a command byte with an
  operand record, R13 (log 15). -/
  | operandsMissing
  /-- An operand's octets hold a value its width or range does not admit. SAFE: no operand record of R97
  (log 15). -/
  | operandOutOfRange
  deriving DecidableEq, Repr

/-- The answer of a meaning, of a step, or of any part of one. -/
abbrev Result := Host.Outcome State Fault Refusal

/-! ## Reset values (10_state.md R47, 70_reset_and_hazards.md R260) -/

/-- Three NULL slots (D21). -/
def Triple.null : Triple := { request := 0#32, confirm := 0#32, indication := 0#32 }

/-- A registry with every slot NULL (R47, D21). -/
def Registry.null : Registry :=
  { data := Triple.null, cca := Triple.null, ed := Triple.null,
    get := Triple.null, setTrx := Triple.null, set := Triple.null }

/-- The PIB with all four attributes 0 (R47, D23). -/
def Pib.zero : Pib :=
  { currentChannel := 0#8, channelsSupported := 0#27, transmitPower := 0#8, ccaMode := 0#8 }

/-- No request in flight. -/
def InFlight.none : InFlight :=
  { data := false, cca := false, ed := false, get := false, setTrx := false, set := false }

/-- The machine right after power-on reset: the registers as 10_state.md R47 gives them (log 7), the
build-time parameters as the open constants of Config (log 5), nothing presented yet (log 9). -/
def State.reset : State :=
  { trxState   := .trxOff
    dsn        := 0#8
    dataStatus := 0x08#8
    txHandle   := 0#8
    upper      := Registry.null
    lower      := Registry.null
    pib        := Pib.zero
    ptq        := []
    build      := { variant := Config.variant, manualFcs := Config.manualFcs }
    env        := { inbox := [], replies := [], timeInput := [], timeSamples := 0 }
    events     := []
    ghost      := { inFlight := InFlight.none, confirming := InFlight.none, doubleIssue := false } }

end Machine
end Sys2Proof
end

