-- ==== Sys2Proof/Machine/Flags.lean ====
section
/-!
DEFINITION. Codes: status and state codes (30_encoding.md R100), decode errors (60_exceptions.md R230)
and completion codes (R232). The block has no flags (10_state.md R38): what a flag would carry is in
the completion record, whose code is computed here.
-/

namespace Sys2Proof
namespace Machine

/-! ## Status codes (R100; D7, D27; log 18) -/

/-- 0x00 `BUSY`: never produced by the block. -/
def Status.busy : Status := 0x00#8
/-- 0x01 `BUSY_RX`: also the sentinel of a rejected SETTRX.req (R171). -/
def Status.busyRx : Status := 0x01#8
/-- 0x02 `BUSY_TX`. -/
def Status.busyTx : Status := 0x02#8
/-- 0x03 `FORCE_TRX_OFF`. -/
def Status.forceTrxOff : Status := 0x03#8
/-- 0x04 `IDLE`: never produced by the block. -/
def Status.idle : Status := 0x04#8
/-- 0x05 `INVALID_PARAMETER`. -/
def Status.invalidParameter : Status := 0x05#8
/-- 0x06 `RX_ON`. -/
def Status.rxOn : Status := 0x06#8
/-- 0x07 `SUCCESS`: never produced by the block. -/
def Status.success : Status := 0x07#8
/-- 0x08 `TRX_OFF`. -/
def Status.trxOff : Status := 0x08#8
/-- 0x09 `TX_ON`. -/
def Status.txOn : Status := 0x09#8
/-- 0x0A `UNSUPPORTED_ATTRIBUTE`. -/
def Status.unsupportedAttribute : Status := 0x0A#8
/-- 0xE5 `FRAME_TOO_LONG`. -/
def Status.frameTooLong : Status := 0xE5#8

/-- The code of a transceiver state (R100): states are a subset of the status codes (R15). -/
def TrxState.code : TrxState → Status
  | .busyRx => Status.busyRx
  | .busyTx => Status.busyTx
  | .forceTrxOff => Status.forceTrxOff
  | .rxOn => Status.rxOn
  | .trxOff => Status.trxOff
  | .txOn => Status.txOn

/-- Membership of a status in `States` (R15, R21), with the state it is. -/
def TrxState.ofStatus (status : Status) : Option TrxState :=
  if status = Status.busyRx then some .busyRx
  else if status = Status.busyTx then some .busyTx
  else if status = Status.forceTrxOff then some .forceTrxOff
  else if status = Status.rxOn then some .rxOn
  else if status = Status.trxOff then some .trxOff
  else if status = Status.txOn then some .txOn
  else none

/-- The four targets a SETTRX request is accepted for (R171). -/
def acceptedTarget (target : Status) : Bool :=
  target == Status.rxOn || target == Status.trxOff || target == Status.txOn ||
  target == Status.forceTrxOff

/-! ## Completion codes (R230, R232; D45) -/

/-- R230. -/
def DecodeError.code : DecodeError → Byte
  | .truncated => 1#8
  | .invalidAddressing => 2#8
  | .malformedLength => 3#8

/-- R232: the 8-bit result code of a completion record. -/
def Completion.code : Completion → Byte
  | .none => 0#8
  | .ok => 0#8
  | .frame _ => 0#8
  | .decodeError e => e.code
  | .mpdu _ _ => 0#8
  | .stored => 0#8
  | .droppedFull => 1#8
  | .found => 0#8
  | .notFound => 1#8
  | .cmdIllegal => 0xFF#8

end Machine
end Sys2Proof
end

