-- ==== Sys2Proof/Machine/Operands.lean ====
section
/-!
DEFINITION. Operand forms: addressing modes (30_encoding.md R74, 40_codec.md R126), transmission
options (R102), the frame control word (R71), the bounds-checked reader of a receive buffer
(20_memory.md R51, 40_codec.md R121), the slot each OutCall goes through (R104) and the PIB attributes
(R101, 43_pib.md R207).
-/

namespace Sys2Proof
namespace Machine

/-! ## Addressing modes -/

/-- Mode codes (R74): 0 Absent, 2 Short16, 3 Extended64. -/
def AddrMode.code : AddrMode → BitVec 2
  | .absent => 0#2
  | .short16 => 2#2
  | .extended64 => 3#2

/-- The mode a 2-bit field of a received frame names; `none` is Reserved, value 1 (R74). -/
def AddrMode.ofField (field : BitVec 2) : Option AddrMode :=
  if field = 0#2 then some .absent
  else if field = 2#2 then some .short16
  else if field = 3#2 then some .extended64
  else none

/-- `Norm` (R126): every requested mode other than 0, 2 and 3 is replaced by Absent. -/
def AddrMode.norm (requested : Byte) : AddrMode :=
  if requested = 2#8 then .short16
  else if requested = 3#8 then .extended64
  else .absent

/-- Octets of an address of each mode (R77). -/
def AddrMode.width : AddrMode → Nat
  | .absent => 0
  | .short16 => 2
  | .extended64 => 8

/-- An address as the source's tagged value (10_state.md R36). -/
inductive Address where
  | absent
  | short (a : BitVec 16)
  | extended (a : BitVec 64)
  deriving DecidableEq, Repr

/-- The tagged address that a mode and the address wire carry. -/
def Address.ofWire (mode : AddrMode) (wire : AddrWire) : Address :=
  match mode with
  | .absent => .absent
  | .short16 => .short (wire.extractLsb' 0 16)
  | .extended64 => .extended wire

/-- The PAN identifier that goes with a mode, if there is one. -/
def panOfWire (mode : AddrMode) (wire : PanId) : Option PanId :=
  match mode with
  | .absent => none
  | .short16 => some wire
  | .extended64 => some wire

/-! ## Frame wires (R36) -/

/-- The destination of a Frame as a tagged value. -/
def Frame.dst (f : Frame) : Address := Address.ofWire f.dstMode f.dstAddr
/-- The source of a Frame as a tagged value. -/
def Frame.src (f : Frame) : Address := Address.ofWire f.srcMode f.srcAddr
/-- The destination PAN identifier, if there is one. -/
def Frame.dstPanId (f : Frame) : Option PanId := panOfWire f.dstMode f.dstPan
/-- The source PAN identifier, if there is one. -/
def Frame.srcPanId (f : Frame) : Option PanId := panOfWire f.srcMode f.srcPan
/-- `payloadLen`, 8 bits. -/
def Frame.payloadLen (f : Frame) : Byte := BitVec.ofNat 8 f.payload.length
/-- `auxPresent`. -/
def Frame.auxPresent (f : Frame) : Bool := f.aux.isSome
/-- `secControl`; 0 when there is no auxiliary header. -/
def Frame.secControl (f : Frame) : Byte :=
  match f.aux with
  | some a => a.secControl
  | none => 0#8
/-- `frameCounter`; 0 when there is no auxiliary header. -/
def Frame.frameCounter (f : Frame) : BitVec 32 :=
  match f.aux with
  | some a => a.frameCounter
  | none => 0#32
/-- The key identifier's octets; none when there is no auxiliary header. -/
def Frame.keyId (f : Frame) : Octets :=
  match f.aux with
  | some a => a.keyId
  | none => []
/-- `keyIdLen`: 0, 1, 5 or 9. -/
def Frame.keyIdLen (f : Frame) : Nat := f.keyId.length

/-! ## Transmission options (R102) and the frame control word (R71) -/

/-- `txOptions[0]`, acknowledged transmission. -/
def txAcknowledged (opts : BitVec 4) : Bool := opts.getLsbD 0
/-- `txOptions[1]`, GTS transmission. -/
def txGts (opts : BitVec 4) : Bool := opts.getLsbD 1
/-- `txOptions[2]`, indirect transmission. -/
def txIndirect (opts : BitVec 4) : Bool := opts.getLsbD 2
/-- `txOptions[3]`, security enabled. -/
def txSecurity (opts : BitVec 4) : Bool := opts.getLsbD 3

/-- The acknowledgment-request flag of a request: "acknowledged and GTS transmission both set the
acknowledgment-request flag" (R127). -/
def txAckRequest (opts : BitVec 4) : Bool := txAcknowledged opts || txGts opts

/-- `fc[2:0]`, the frame type. -/
def fcFrameType (fc : BitVec 16) : BitVec 3 := fc.extractLsb' 0 3
/-- `fc[3]`. -/
def fcSecurityEnabled (fc : BitVec 16) : Bool := fc.getLsbD 3
/-- `fc[4]`. -/
def fcFramePending (fc : BitVec 16) : Bool := fc.getLsbD 4
/-- `fc[5]`. -/
def fcAckRequest (fc : BitVec 16) : Bool := fc.getLsbD 5
/-- `fc[6]`, PAN-ID compression. -/
def fcIntraPan (fc : BitVec 16) : Bool := fc.getLsbD 6
/-- `fc[11:10]`, destination addressing mode field. -/
def fcDstMode (fc : BitVec 16) : BitVec 2 := fc.extractLsb' 10 2
/-- `fc[13:12]`, frame version in `EXTENDED`. -/
def fcFrameVersion (fc : BitVec 16) : BitVec 2 := fc.extractLsb' 12 2
/-- `fc[15:14]`, source addressing mode field. -/
def fcSrcMode (fc : BitVec 16) : BitVec 2 := fc.extractLsb' 14 2

/-- One flag bit of the frame control word. -/
def fcBit (b : Bool) (position : Nat) : BitVec 16 :=
  if b then (1#16) <<< position else 0#16

/-- The frame control word ENCODE writes (R127, R135): frame type Data, reserved bits and frame
version 0. -/
def frameControl (dst src : AddrMode) (opts : BitVec 4) (intraPan : Bool) : BitVec 16 :=
  1#16 ||| fcBit (txSecurity opts) 3 ||| fcBit (txIndirect opts) 4 ||| fcBit (txAckRequest opts) 5 |||
  fcBit intraPan 6 ||| (dst.code.setWidth 16 <<< 10) ||| (src.code.setWidth 16 <<< 14)

/-! ## The length of a header (R80) -/

/-- `dl`: octets of the destination fields. -/
def dstFieldsLen : AddrMode → Nat
  | .absent => 0
  | .short16 => 4
  | .extended64 => 10

/-- `sp` + `sa`: octets of the source fields. -/
def srcFieldsLen (mode : AddrMode) (intraPan : Bool) : Nat :=
  match mode with
  | .absent => 0
  | .short16 => (if intraPan then 0 else 2) + 2
  | .extended64 => (if intraPan then 0 else 2) + 8

/-- `headerLen` without the auxiliary header. -/
def headerLength (dst src : AddrMode) (intraPan : Bool) : Nat :=
  3 + dstFieldsLen dst + srcFieldsLen src intraPan

/-- `KEYID_LEN` (R5, R82): the key identifier's length for each key-ID mode. -/
def keyIdLength (mode : BitVec 2) : Nat :=
  if mode = 0#2 then 0 else if mode = 1#2 then 1 else if mode = 2#2 then 5 else 9

/-- `sc[4:3]`, the key-ID mode of a security control octet (R82). -/
def keyIdMode (secControl : Byte) : BitVec 2 := secControl.extractLsb' 3 2

/-! ## The reader of a receive buffer -/

/-- A cursor in a receive buffer: its offset `cur` and the octets from there to `bufLen`. -/
structure Reader where
  cur  : Nat
  rest : Octets
  deriving DecidableEq, Repr

/-- `Need(n)` (R121) and the read of `n` octets: past the end of the buffer it fails with Truncated. -/
def Reader.take (n : Nat) (r : Reader) : Except DecodeError (Octets × Reader) :=
  if n ≤ r.rest.length then
    .ok (r.rest.take n, { cur := r.cur + n, rest := r.rest.drop n })
  else
    .error .truncated

/-- `Need(n)` and `MemRead(RXBUF, cur, n)` (R11, R52). -/
def Reader.value (n : Nat) (r : Reader) : Except DecodeError (Nat × Reader) := do
  let (o, r) ← r.take n
  .ok (leValue o, r)

/-- `Need(n)` alone. -/
def Reader.need (n : Nat) (r : Reader) : Except DecodeError Unit :=
  if n ≤ r.rest.length then .ok () else .error .truncated

/-! ## The slot of each OutCall (R104) -/

/-- The registry instance of an OutCall's label. -/
def OutArgs.inst : OutArgs → Inst
  | .dataConfirm _ => .upper
  | .dataIndication _ => .upper
  | .ccaConfirm _ => .upper
  | .edConfirm _ _ => .upper
  | .getConfirm _ _ _ => .upper
  | .setTrxConfirm _ => .upper
  | .setConfirm _ _ => .upper
  | .dataRequest _ _ => .lower
  | .ccaRequest => .lower
  | .edRequest => .lower
  | .getRequest _ => .lower
  | .setTrxRequest _ => .lower
  | .setRequest _ _ => .lower

/-- The service of an OutCall's label. -/
def OutArgs.svc : OutArgs → Svc
  | .dataConfirm _ => .data
  | .dataIndication _ => .data
  | .ccaConfirm _ => .cca
  | .edConfirm _ _ => .ed
  | .getConfirm _ _ _ => .get
  | .setTrxConfirm _ => .setTrx
  | .setConfirm _ _ => .set
  | .dataRequest _ _ => .data
  | .ccaRequest => .cca
  | .edRequest => .ed
  | .getRequest _ => .get
  | .setTrxRequest _ => .setTrx
  | .setRequest _ _ => .set

/-- The role of an OutCall's label. -/
def OutArgs.role : OutArgs → Role
  | .dataConfirm _ => .confirm
  | .dataIndication _ => .indication
  | .ccaConfirm _ => .confirm
  | .edConfirm _ _ => .confirm
  | .getConfirm _ _ _ => .confirm
  | .setTrxConfirm _ => .confirm
  | .setConfirm _ _ => .confirm
  | .dataRequest _ _ => .request
  | .ccaRequest => .request
  | .edRequest => .request
  | .getRequest _ => .request
  | .setTrxRequest _ => .request
  | .setRequest _ _ => .request

/-! ## PIB attributes (R101, R207) -/

/-- The four PIB attributes. -/
inductive PibAttr where
  | currentChannel
  | channelsSupported
  | transmitPower
  | ccaMode
  deriving DecidableEq, Repr

/-- Attribute identifiers (R101): every value above 3 is outside the four. -/
def PibAttr.ofByte (attr : Byte) : Option PibAttr :=
  if attr = 0x00#8 then some .currentChannel
  else if attr = 0x01#8 then some .channelsSupported
  else if attr = 0x02#8 then some .transmitPower
  else if attr = 0x03#8 then some .ccaMode
  else none

/-- The test of SET.req (R207): unsigned on the 32-bit value, the channel against the bitmap stored
at that moment. -/
def Pib.accepts (p : Pib) (a : PibAttr) (value : BitVec 32) : Bool :=
  match a with
  | .currentChannel =>
    decide (value.toNat ≤ Config.channelMax) && p.channelsSupported.getLsbD value.toNat
  | .channelsSupported => decide (value.toNat < 2 ^ Config.channelBits)
  | .transmitPower => decide (value.toNat ≤ Config.txPowerMax)
  | .ccaMode => decide (value.toNat ≤ Config.ccaModeMax)

/-- The store of SET.req (R207), the low bits of the value. -/
def Pib.store (p : Pib) (a : PibAttr) (value : BitVec 32) : Pib :=
  match a with
  | .currentChannel => { p with currentChannel := value.setWidth 8 }
  | .channelsSupported => { p with channelsSupported := value.setWidth 27 }
  | .transmitPower => { p with transmitPower := value.setWidth 8 }
  | .ccaMode => { p with ccaMode := value.setWidth 8 }

end Machine
end Sys2Proof
end

