-- ==== Sys2Proof/Machine/Ops.lean ====
section
/-!
DEFINITION. The named operations on the state: its registers, the registry, the queue, the inputs and
outputs, call-if-present (00_scope.md R12), the inbound gate (41_sap_registry.md R153), the immediate
confirm (60_exceptions.md R233, R239) and the end of a command, the reset input (70_reset_and_hazards.md
R260) and the state read port (10_state.md R45).
-/

namespace Sys2Proof
namespace Machine

/-! ## Sequencing -/

/-- Go on after a part of a command; a fault or a refusal ends it. -/
def Result.andThen (r : Result) (k : State → Result) : Result :=
  match r with
  | .next s => k s
  | .fault e => .fault e
  | .refused e => .refused e

/-! ## Register writes, one per field -/

def State.setTrxState (s : State) (v : TrxState) : State := { s with trxState := v }
def State.setDsn (s : State) (v : BitVec 8) : State := { s with dsn := v }
def State.setDataStatus (s : State) (v : Status) : State := { s with dataStatus := v }
def State.setTxHandle (s : State) (v : BitVec 8) : State := { s with txHandle := v }
def State.setPib (s : State) (v : Pib) : State := { s with pib := v }
def State.setPtq (s : State) (v : List PtqEntry) : State := { s with ptq := v }
def State.setEnv (s : State) (v : Env) : State := { s with env := v }
def State.setGhost (s : State) (v : Ghost) : State := { s with ghost := v }
def State.setUpper (s : State) (v : Registry) : State := { s with upper := v }
def State.setLower (s : State) (v : Registry) : State := { s with lower := v }

/-- One more event for the outside to see (R13). -/
def State.log (s : State) (e : Event) : State := { s with events := s.events ++ [e] }

/-! ## The registry (R25, R150) -/

/-- The slot of a role. -/
def Triple.slot (t : Triple) : Role → Handler
  | .request => t.request
  | .confirm => t.confirm
  | .indication => t.indication

/-- Write the slot of a role. -/
def Triple.bind (t : Triple) (role : Role) (h : Handler) : Triple :=
  match role with
  | .request => { t with request := h }
  | .confirm => { t with confirm := h }
  | .indication => { t with indication := h }

/-- The triple of a service. -/
def Registry.triple (r : Registry) : Svc → Triple
  | .data => r.data
  | .cca => r.cca
  | .ed => r.ed
  | .get => r.get
  | .setTrx => r.setTrx
  | .set => r.set

/-- Write the triple of a service. -/
def Registry.setTriple (r : Registry) (svc : Svc) (t : Triple) : Registry :=
  match svc with
  | .data => { r with data := t }
  | .cca => { r with cca := t }
  | .ed => { r with ed := t }
  | .get => { r with get := t }
  | .setTrx => { r with setTrx := t }
  | .set => { r with set := t }

/-- A registry instance. -/
def State.registry (s : State) : Inst → Registry
  | .upper => s.upper
  | .lower => s.lower

/-- `S.slot[inst][svc][role]` (R25). -/
def State.slot (s : State) (inst : Inst) (svc : Svc) (role : Role) : Handler :=
  ((s.registry inst).triple svc).slot role

/-- Write one slot of a registry. -/
def Registry.bind (r : Registry) (svc : Svc) (role : Role) (h : Handler) : Registry :=
  r.setTriple svc ((r.triple svc).bind role h)

/-- `S.slot[inst][svc][role] <- handler` (R150). -/
def State.bindSlot (s : State) (inst : Inst) (svc : Svc) (role : Role) (h : Handler) : State :=
  match inst with
  | .upper => s.setUpper (s.upper.bind svc role h)
  | .lower => s.setLower (s.lower.bind svc role h)

/-! ## Ghost bits (R271; log 6, log 17) -/

/-- The ghost bit of a service. -/
def InFlight.bit (g : InFlight) : Svc → Bool
  | .data => g.data
  | .cca => g.cca
  | .ed => g.ed
  | .get => g.get
  | .setTrx => g.setTrx
  | .set => g.set

/-- Write the ghost bit of a service. -/
def InFlight.setBit (g : InFlight) (svc : Svc) (v : Bool) : InFlight :=
  match svc with
  | .data => { g with data := v }
  | .cca => { g with cca := v }
  | .ed => { g with ed := v }
  | .get => { g with get := v }
  | .setTrx => { g with setTrx := v }
  | .set => { g with set := v }

/-- A request of the service is in flight (R271): forwarded, its Confirm not yet come or still being
processed. -/
def Ghost.outstanding (g : Ghost) (svc : Svc) : Bool := g.inFlight.bit svc || g.confirming.bit svc

/-- A request runs, or is about to be forwarded: if one of the same service is in flight, the precondition
of R271 is broken. -/
def State.noteRequest (s : State) (svc : Svc) : State :=
  s.setGhost { s.ghost with doubleIssue := s.ghost.doubleIssue || s.ghost.outstanding svc }

/-- A request of the service is forwarded: it is tested here whatever was tested before, since commands of
a handler may have come between (the handler of DATA.req's internal SETTRX request), and is in flight from
here. -/
def State.noteForwarded (s : State) (svc : Svc) : State :=
  s.setGhost { s.ghost with
    inFlight := s.ghost.inFlight.setBit svc true
    doubleIssue := s.ghost.doubleIssue || s.ghost.outstanding svc }

/-- The driver's Confirm of the service comes: the request it answers, if there is one, stays in flight
while the Confirm is processed. -/
def State.beginConfirm (s : State) (svc : Svc) : State :=
  s.setGhost { s.ghost with
    inFlight := s.ghost.inFlight.setBit svc false
    confirming := s.ghost.confirming.setBit svc (s.ghost.outstanding svc) }

/-- The Confirm has been processed: the request it answered is no longer in flight, and `confirming` is
again as it was `before` (a Confirm may come while another is processed). A request forwarded meanwhile
stays in flight. -/
def State.endConfirm (s : State) (svc : Svc) (before : Bool) : State :=
  s.setGhost { s.ghost with confirming := s.ghost.confirming.setBit svc before }

/-! ## Events and completion (R13) -/

/-- `emit OutCall(inst, svc, role, h, args)` (R12). A forwarded request is tested and in flight from here (R271). -/
def State.emit (s : State) (call : OutCall) : State :=
  let s := s.log (.out call)
  match call.args.role with
  | .request => s.noteForwarded call.args.svc
  | .confirm => s
  | .indication => s

/-- `Complete(result)` (R13). -/
def State.complete (s : State) (c : Completion) : State := s.log (.completed c)

/-- A command ends with `Complete(None)`. -/
def finish (s : State) : Result := .next (s.complete .none)

/-! ## Call-if-present, the inbound gate, the immediate confirm -/

/-- How a handler that is called runs: what it does to the state until it returns (R12). -/
abbrev Invoke := OutCall → State → Result

/-- `Call(inst, svc, role, args)` (R12, R154, R155): through a NULL slot nothing happens; otherwise the
OutCall's handler runs. The slot is read at the moment of the call. -/
def callIfPresent (invoke : Invoke) (args : OutArgs) (s : State) : Result :=
  let h := s.slot args.inst args.svc args.role
  if h = 0#32 then .next s else invoke { handler := h, args := args } s

/-- The inbound gate (R153): with its inbound slot NULL a primitive has no effect and completes. -/
def gated (inst : Inst) (svc : Svc) (role : Role) (body : State → Result) (s : State) : Result :=
  if s.slot inst svc role = 0#32 then finish s else body s

/-- One OutCall and then the end of the command: the shape of an immediate confirm (R233, R239), of a
forwarded request and of a forwarded confirm. -/
def callAndFinish (invoke : Invoke) (args : OutArgs) (s : State) : Result :=
  (callIfPresent invoke args s).andThen finish

/-- A driver's Confirm of a service is processed (R271), and the command ends. -/
def whileConfirming (svc : Svc) (body : State → Result) (s : State) : Result :=
  (body (s.beginConfirm svc)).andThen fun t => finish (t.endConfirm svc (s.ghost.confirming.bit svc))

/-- A driver's Confirm that is passed on. -/
def confirmAndFinish (invoke : Invoke) (args : OutArgs) (s : State) : Result :=
  whileConfirming args.svc (callIfPresent invoke args) s

/-! ## The time source (R42, R243; log 4, log 23) -/

/-- Sample `timeNow`: the next listed value, or the free value when none is listed. -/
def State.sampleTime (s : State) : TimeStamp × State :=
  match s.env.timeInput with
  | t :: ts => (t, s.setEnv { s.env with timeInput := ts })
  | [] => (Config.freeTime s.env.timeSamples, s.setEnv { s.env with timeSamples := s.env.timeSamples + 1 })

/-! ## The pending transaction queue (R220, R221, R223) -/

/-- `ptq.count` (R30): the number of valid entries. -/
def State.ptqCount (s : State) : Nat := s.ptq.length

/-- `PtqAdd(handle, kind, ackRequired)` (R221): at the end of the table, or nowhere if it is full. -/
def ptqAddOp (handle : Byte) (kind : TxKind) (ackRequired : Bool) (s : State) : Completion × State :=
  let (now, s) := s.sampleTime
  if s.ptq.length = Config.ptqSlots then (.droppedFull, s)
  else
    (.stored,
      s.setPtq (s.ptq ++ [{ handle := handle, kind := kind, ackRequired := ackRequired, timestamp := now }]))

/-- The scan and shift of R223 on the valid entries: the first entry with the handle goes, the later
ones move one place down; `none` if there is none. -/
def removeFirst (handle : Byte) : List PtqEntry → Option (List PtqEntry)
  | [] => none
  | e :: es =>
    if e.handle = handle then some es
    else
      match removeFirst handle es with
      | some es' => some (e :: es')
      | none => none

/-- `PtqRemove(handle)` (R223). -/
def ptqRemoveOp (handle : Byte) (s : State) : Completion × State :=
  match removeFirst handle s.ptq with
  | some q => (.found, s.setPtq q)
  | none => (.notFound, s)

/-! ## The reset input (R260; log 8) -/

/-- `Reset()`: writes every register of R20; makes no Call and no completion, and touches nothing
outside the block. -/
def State.applyReset (s : State) : State :=
  { s with
    dsn := 0#8
    trxState := .trxOff
    dataStatus := Status.trxOff
    txHandle := 0#8
    upper := Registry.null
    lower := Registry.null
    pib := Pib.zero
    ptq := [] }

/-! ## The state read port (10_state.md R45; log 22) -/

/-- `ptq.entry[i]` packed: handle in bits 7..0, kind in bit 8, ackRequired in bit 9. -/
def PtqEntry.packed (e : PtqEntry) : BitVec 32 :=
  e.handle.setWidth 32 ||| (match e.kind with | .data => 0x000#32 | .command => 0x100#32) |||
  (if e.ackRequired then 0x200#32 else 0x000#32)

/-- The slot a read port number from 0x80 names: `18*inst + 3*svc + role`. -/
def State.slotByNumber (s : State) (n : Nat) : BitVec 32 :=
  let inst : Inst := if n < 18 then .upper else .lower
  match Svc.ofNumber (n % 18 / 3), Role.ofNumber (n % 3) with
  | some svc, some role => s.slot inst svc role
  | _, _ => 0#32

/-- `x[number]`: the register's value zero-extended to 32 bits; 0 for any other number. It has no side
effect. -/
def State.readPort (s : State) (number : Nat) : BitVec 32 :=
  if number = 0x00 then s.trxState.code.setWidth 32
  else if number = 0x01 then s.dsn.setWidth 32
  else if number = 0x02 then s.dataStatus.setWidth 32
  else if number = 0x03 then s.txHandle.setWidth 32
  else if number = 0x10 then s.pib.currentChannel.setWidth 32
  else if number = 0x11 then s.pib.channelsSupported.setWidth 32
  else if number = 0x12 then s.pib.transmitPower.setWidth 32
  else if number = 0x13 then s.pib.ccaMode.setWidth 32
  else if number = 0x20 then BitVec.ofNat 32 s.ptqCount
  else if 0x30 ≤ number ∧ number < 0x3A then
    match s.ptq[number - 0x30]? with
    | some e => e.packed
    | none => 0#32
  else if 0x40 ≤ number ∧ number < 0x4A then
    match s.ptq[number - 0x40]? with
    | some e => e.timestamp
    | none => 0#32
  else if 0x80 ≤ number ∧ number < 0xA4 then s.slotByNumber (number - 0x80)
  else 0#32

end Machine
end Sys2Proof
end

