-- ==== Sys2Proof/Machine/PibServices.lean ====
section
/-!
DEFINITION. The GET and SET primitives (43_pib.md), each as a body over the way a called handler runs.
Neither reads `trxState`. The meanings `exec…` are in Machine/Primitives.lean.
-/

namespace Sys2Proof
namespace Machine

/-- GET.req (R200): a known attribute is forwarded, the store is not read (R201). -/
def getReqBody (invoke : Invoke) (attr : Byte) (s : State) : Result :=
  gated .upper .get .request
    (fun s =>
      let s := s.noteRequest .get
      match PibAttr.ofByte attr with
      | none => callAndFinish invoke (.getConfirm Status.unsupportedAttribute attr 0#32) s
      | some _ => callAndFinish invoke (.getRequest attr) s) s

/-- GET.cnf (R202). -/
def getCnfBody (invoke : Invoke) (status : Status) (attr : Byte) (value : BitVec 32) (s : State) : Result :=
  gated .lower .get .confirm (confirmAndFinish invoke (.getConfirm status attr value)) s

/-- SET.req (R210): unknown attribute, then the range test, then the store and the driver's notice. -/
def setReqBody (invoke : Invoke) (attr : Byte) (value : BitVec 32) (s : State) : Result :=
  gated .upper .set .request
    (fun s =>
      let s := s.noteRequest .set
      match PibAttr.ofByte attr with
      | none => callAndFinish invoke (.setConfirm Status.unsupportedAttribute attr) s
      | some a =>
        if s.pib.accepts a value then
          callAndFinish invoke (.setRequest attr value) (s.setPib (s.pib.store a value))
        else
          callAndFinish invoke (.setConfirm Status.invalidParameter attr) s) s

/-- SET.cnf (R209): passed on; a failure does not undo the store. -/
def setCnfBody (invoke : Invoke) (status : Status) (attr : Byte) (s : State) : Result :=
  gated .lower .set .confirm (confirmAndFinish invoke (.setConfirm status attr)) s

end Machine
end Sys2Proof
end

