-- ==== Sys2Proof/Machine/Queue.lean ====
section
/-!
DEFINITION. The direct commands of the pending transaction queue (44_ptq.md R221, R223). They pass
through no registry slot.
-/

namespace Sys2Proof
namespace Machine

/-- PTQ.ADD, 0x42 (R221): completes with Stored or DroppedFull. -/
def execPtqAdd (handle : Byte) (kind : TxKind) (ackRequired : Bool) (s : State) : Result :=
  let (c, s) := ptqAddOp handle kind ackRequired s
  .next (s.complete c)

/-- PTQ.REMOVE, 0x43 (R223), and so PURGE (R106, R225): completes with Found or NotFound. -/
def execPtqRemove (handle : Byte) (s : State) : Result :=
  let (c, s) := ptqRemoveOp handle s
  .next (s.complete c)

end Machine
end Sys2Proof
end

