-- ==== Sys2Proof/Machine/SapRegistry.lean ====
section
/-!
DEFINITION. BIND on the two registry instances (41_sap_registry.md R150, R151).
-/

namespace Sys2Proof
namespace Machine

/-- BIND (R150): write one slot and complete. -/
def bindOp (inst : Inst) (svc : Svc) (role : Role) (handler : Handler) (s : State) : Result :=
  finish (s.bindSlot inst svc role handler)

/-- BIND on instance `U`, 0x20 + 4*svc + role. -/
def execBindU (svc : Svc) (role : Role) (handler : Handler) (s : State) : Result :=
  bindOp .upper svc role handler s

/-- BIND on instance `L`, 0xA0 + 4*svc + role. -/
def execBindL (svc : Svc) (role : Role) (handler : Handler) (s : State) : Result :=
  bindOp .lower svc role handler s

end Machine
end Sys2Proof
end

