-- ==== Sys2Proof/Machine/Codec.lean ====
section
/-!
DEFINITION. The frame codec (40_codec.md): DECODE, ENCODE, the PPDU wrapper (30_encoding.md R92), and
the meanings of the commands DECODE and ENCODE.
-/

namespace Sys2Proof
namespace Machine

/-! ## DECODE (R110 to R124) -/

/-- The PAN identifier and address of one end of a frame, as read. -/
structure AddrFields where
  mode : AddrMode
  pan  : PanId
  addr : AddrWire
  deriving DecidableEq, Repr

/-- `Need(2)` and a PAN identifier. -/
def readPan (r : Reader) : Except DecodeError (PanId × Reader) := do
  let (v, r) ← r.value 2
  .ok (BitVec.ofNat 16 v, r)

/-- `Need(w)` and an address of the mode's width, zero-extended (R78). -/
def readAddr (mode : AddrMode) (r : Reader) : Except DecodeError (AddrWire × Reader) := do
  let (v, r) ← r.value mode.width
  .ok (BitVec.ofNat 64 v, r)

/-- Step 1 (R114, R115): the mode test comes before any bounds test of the step. -/
def readDst (fc : BitVec 16) (r : Reader) : Except DecodeError (AddrFields × Reader) :=
  match AddrMode.ofField (fcDstMode fc) with
  | none => .error .invalidAddressing
  | some .absent => .ok ({ mode := .absent, pan := 0#16, addr := 0#64 }, r)
  | some mode => do
    let (pan, r) ← readPan r
    let (addr, r) ← readAddr mode r
    .ok ({ mode, pan, addr }, r)

/-- Step 2 (R116, R117, R118): with the intra-PAN flag the source PAN identifier is the destination's,
0 when there is none (D13; log 13), and nothing is read for it. -/
def readSrc (fc : BitVec 16) (dstPan : PanId) (r : Reader) : Except DecodeError (AddrFields × Reader) :=
  match AddrMode.ofField (fcSrcMode fc) with
  | none => .error .invalidAddressing
  | some .absent => .ok ({ mode := .absent, pan := 0#16, addr := 0#64 }, r)
  | some mode => do
    let (pan, r) ← if fcIntraPan fc then .ok (dstPan, r) else readPan r
    let (addr, r) ← readAddr mode r
    .ok ({ mode, pan, addr }, r)

/-- Step 3 (R119, R120): the auxiliary security header, in `EXTENDED` with the security-enabled flag. -/
def readAux (variant : Variant) (fc : BitVec 16) (r : Reader) :
    Except DecodeError (Option AuxHeader × Reader) :=
  match variant, fcSecurityEnabled fc with
  | .extended, true => do
    let (sc, r) ← r.value 1
    let secControl : Byte := BitVec.ofNat 8 sc
    let (counter, r) ← r.value 4
    let (keyId, r) ← r.take (keyIdLength (keyIdMode secControl))
    .ok (some { secControl, frameCounter := BitVec.ofNat 32 counter, keyId }, r)
  | .extended, false => .ok (none, r)
  | .baseline, _ => .ok (none, r)

/-- Step 4 (R122): the payload length, in signed integers; a negative one is an error. -/
def payloadLength (declaredLength : Byte) (headerLen : Nat) : Except DecodeError Nat :=
  let pl : Int := (declaredLength.toNat : Int) - (Config.lenBias : Int) - (headerLen : Int)
  if pl < 0 then .error .malformedLength else .ok pl.toNat

/-- The payload and the trailer as step 5 reads them. -/
structure Trailer where
  payload : Octets
  fcs     : BitVec 16
  lqi     : Byte
  rssi    : Byte
  deriving DecidableEq, Repr

/-- Step 5 (R123): one bounds test for payload, FCS, LQI and RSSI together; octets beyond are ignored. -/
def readTrailer (payloadLen : Nat) (r : Reader) : Except DecodeError Trailer := do
  r.need (payloadLen + 4)
  let (payload, r) ← r.take payloadLen
  let (fcs, r) ← r.value Config.fcsLen
  let (lqi, r) ← r.value 1
  let (rssi, _) ← r.value 1
  .ok { payload, fcs := BitVec.ofNat 16 fcs, lqi := BitVec.ofNat 8 lqi, rssi := BitVec.ofNat 8 rssi }

/-- The frame version a Frame reports (R36, R75). -/
def reportedVersion (variant : Variant) (fc : BitVec 16) : BitVec 2 :=
  match variant with
  | .extended => fcFrameVersion fc
  | .baseline => 0#2

/-- The Frame of R124's last line. -/
def assembleFrame (variant : Variant) (fc : BitVec 16) (seq : Byte) (dst src : AddrFields)
    (aux : Option AuxHeader) (headerLen : Nat) (t : Trailer) : Frame :=
  { fc
    frameType := fcFrameType fc
    securityEnabled := fcSecurityEnabled fc
    framePending := fcFramePending fc
    ackRequest := fcAckRequest fc
    intraPan := fcIntraPan fc
    dstMode := dst.mode
    srcMode := src.mode
    frameVersion := reportedVersion variant fc
    seq
    dstPan := dst.pan
    dstAddr := dst.addr
    srcPan := src.pan
    srcAddr := src.addr
    aux
    headerLen
    payload := t.payload
    fcs := t.fcs
    lqi := t.lqi
    rssi := t.rssi }

/-- DECODE (R124); `bufLen` is the length of `rxbuf`. -/
def decodeMpdu (variant : Variant) (rxbuf : Octets) (declaredLength : Byte) :
    Except DecodeError Frame := do
  let r : Reader := { cur := 0, rest := rxbuf }
  r.need Config.minHeader
  let (fcValue, r) ← r.value 2
  let (seqValue, r) ← r.value 1
  let fc : BitVec 16 := BitVec.ofNat 16 fcValue
  let (dst, r) ← readDst fc r
  let (src, r) ← readSrc fc dst.pan r
  let (aux, r) ← readAux variant fc r
  let payloadLen ← payloadLength declaredLength r.cur
  let t ← readTrailer payloadLen r
  .ok (assembleFrame variant fc (BitVec.ofNat 8 seqValue) dst src aux r.cur t)

/-! ## ENCODE (R125 to R135) -/

/-- The destination fields written by ENCODE (R129). -/
def dstFields (mode : AddrMode) (pan : PanId) (addr : AddrWire) : Octets :=
  match mode with
  | .absent => []
  | .short16 => octetsOf 2 pan ++ octetsOf 2 addr
  | .extended64 => octetsOf 2 pan ++ octetsOf 8 addr

/-- The source fields written by ENCODE (R128, R129): no PAN identifier when `intraPan` is set. -/
def srcFields (mode : AddrMode) (intraPan : Bool) (pan : PanId) (addr : AddrWire) : Octets :=
  match mode with
  | .absent => []
  | .short16 => (if intraPan then [] else octetsOf 2 pan) ++ octetsOf 2 addr
  | .extended64 => (if intraPan then [] else octetsOf 2 pan) ++ octetsOf 8 addr

/-- The MAC header ENCODE writes (R126, R127, R129, R131). -/
def encodeHeader (dsn : BitVec 8) (r : EncodeRequest) : Octets :=
  octetsOf 2 (frameControl (AddrMode.norm r.dstMode) (AddrMode.norm r.srcMode) r.txOptions r.intraPan) ++
  [dsn] ++
  dstFields (AddrMode.norm r.dstMode) r.dstPan r.dstAddr ++
  srcFields (AddrMode.norm r.srcMode) r.intraPan r.srcPan r.srcAddr

/-- The footer (R134): nothing, or two octets of the collaborator checksum over all before it. -/
def encodeFooter (manualFcs : Bool) (fcs16 : Octets → BitVec 16) (body : Octets) : Octets :=
  if manualFcs then octetsOf 2 (fcs16 body) else []

/-- The MPDU ENCODE writes (R135), for a sequence counter, a build and a checksum function. -/
def encodeMpdu (manualFcs : Bool) (fcs16 : Octets → BitVec 16) (dsn : BitVec 8) (r : EncodeRequest) :
    Octets :=
  let body := encodeHeader dsn r ++ r.payload
  body ++ encodeFooter manualFcs fcs16 body

/-- The length octet of a PPDU (R91): the count of octets following, capped at 127, and a reserved 0. -/
def phrOctet (psdu : Octets) : Byte := BitVec.ofNat 8 (min psdu.length Config.phrLenMax)

/-- `PpduWrap(psdu)` (R92). -/
def ppduWrap (psdu : Octets) : Octets :=
  Config.preamble ++ [Config.sfd] ++ [phrOctet psdu] ++ psdu

/-- ENCODE in a state: the MPDU, with the sequence counter advanced modulo 256 (R131). -/
def encodeOp (r : EncodeRequest) (s : State) : Octets × State :=
  (encodeMpdu s.build.manualFcs Config.fcs16 s.dsn r, s.setDsn (s.dsn + 1#8))

/-! ## The commands -/

/-- The completion of DECODE (R110). -/
def decodeCompletion (r : Except DecodeError Frame) : Completion :=
  match r with
  | .ok f => .frame f
  | .error e => .decodeError e

/-- DECODE, 0x40 (R110): reads and writes no register. -/
def execDecodeFrame (rxbuf : Octets) (declaredLength : Byte) (s : State) : Result :=
  .next (s.complete (decodeCompletion (decodeMpdu s.build.variant rxbuf declaredLength)))

/-- ENCODE, 0x41 (R125): completes with the MPDU and its length, and advances `dsn`. -/
def execEncodeFrame (r : EncodeRequest) (s : State) : Result :=
  let (mpdu, s) := encodeOp r s
  .next (s.complete (.mpdu mpdu (BitVec.ofNat 9 mpdu.length)))

end Machine
end Sys2Proof
end

