-- ==== Sys2Proof/Machine/Transceiver.lean ====
section
/-!
DEFINITION. The SETTRX, DATA, CCA and ED primitives (42_trx_state_machine.md), each as a body over
the way a called handler runs (`Invoke`). The meanings `exec…` of the same primitives, with the
handlers of the state's environment, are in Machine/Primitives.lean.
-/

namespace Sys2Proof
namespace Machine

/-! ## SETTRX -/

/-- `SetTrxBody(target)` (R171), shared by SETTRX.req and the internal requests of DATA.req and
DATA.cnf (R158): forwarded for the four accepted targets, else an immediate confirm with the
sentinel `BUSY_RX`. The current state is not consulted. -/
def setTrxBody (invoke : Invoke) (target : Status) (s : State) : Result :=
  let s := s.noteRequest .setTrx
  if acceptedTarget target then callIfPresent invoke (.setTrxRequest target) s
  else callIfPresent invoke (.setTrxConfirm Status.busyRx) s

/-- SETTRX.req (R170). -/
def setTrxReqBody (invoke : Invoke) (target : Status) (s : State) : Result :=
  gated .upper .setTrx .request (fun s => (setTrxBody invoke target s).andThen finish) s

/-- The write of SETTRX.cnf (R173): only a status that is one of the six states is stored. -/
def State.trackStatus (s : State) (status : Status) : State :=
  match TrxState.ofStatus status with
  | some t => s.setTrxState t
  | none => s

/-- SETTRX.cnf (R173): track the state the driver reports, and pass the confirm on. -/
def setTrxCnfBody (invoke : Invoke) (status : Status) (s : State) : Result :=
  gated .lower .setTrx .confirm
    (fun s => confirmAndFinish invoke (.setTrxConfirm status) (s.trackStatus status)) s

/-! ## DATA -/

/-- The forward path of DATA.req once `TX_ON` is confirmed (R178): encode, wrap, record, then hand the
PPDU to the driver. The three writes are made before the call (D44). -/
def dataForward (invoke : Invoke) (r : EncodeRequest) (s : State) : Result :=
  let (mpdu, s) := encodeOp r s
  let ppdu := ppduWrap mpdu
  let s := s.setTxHandle r.handle
  let (_, s) := ptqAddOp r.handle .data (txAckRequest r.txOptions) s
  let s := s.setDataStatus Status.txOn
  callAndFinish invoke (.dataRequest ppdu (BitVec.ofNat 9 ppdu.length)) s

/-- What DATA.req does when its internal SETTRX request has returned (R178, R179). -/
def dataAfterSetTrx (invoke : Invoke) (r : EncodeRequest) (s : State) : Result :=
  if s.trxState = .txOn then dataForward invoke r s else finish s

/-- DATA.req refused with a status (R176, R177): recorded and confirmed at once. -/
def dataRefuse (invoke : Invoke) (status : Status) (s : State) : Result :=
  callAndFinish invoke (.dataConfirm status) (s.setDataStatus status)

/-- DATA.req (R180). Its internal SETTRX request counts as a request of SETTRX (R271: "an upper SETTRX.req
must not be outstanding when a DATA.req or a DATA.cnf runs"), made or not. -/
def dataReqBody (invoke : Invoke) (r : EncodeRequest) (s : State) : Result :=
  gated .upper .data .request
    (fun s =>
      let s := (s.noteRequest .data).noteRequest .setTrx
      if s.trxState ≠ .trxOff then dataRefuse invoke s.trxState.code s
      else if Config.maxPayload < r.payload.length then dataRefuse invoke Status.frameTooLong s
      else (setTrxBody invoke Status.txOn s).andThen (dataAfterSetTrx invoke r)) s

/-- What DATA.cnf does when its internal SETTRX request has returned (R181). -/
def dataCnfAfterSetTrx (invoke : Invoke) (status : Status) (s : State) : Result :=
  let (_, s) := ptqRemoveOp s.txHandle s
  callIfPresent invoke (.dataConfirm status) (s.setDataStatus status)

/-- DATA.cnf (R181): request `RX_ON`, resolve the queue entry, record and pass on the status. -/
def dataCnfBody (invoke : Invoke) (status : Status) (s : State) : Result :=
  gated .lower .data .confirm
    (whileConfirming .data fun s =>
      (setTrxBody invoke Status.rxOn s).andThen (dataCnfAfterSetTrx invoke status)) s

/-- The arguments of the indication of a decoded frame (R182). -/
def Frame.indication (f : Frame) : DataIndication :=
  { srcMode := f.srcMode
    srcPan := f.srcPan
    srcAddr := f.srcAddr
    dstMode := f.dstMode
    dstPan := f.dstPan
    dstAddr := f.dstAddr
    payloadLen := f.payloadLen
    payload := f.payload
    linkQuality := f.lqi
    securityUsed := f.securityEnabled }

/-- DATA.ind (R182): decode, and dispatch the frame upward; a decode error is the completion. -/
def dataIndBody (invoke : Invoke) (rxbuf : Octets) (declaredLength : Byte) (s : State) : Result :=
  gated .lower .data .indication
    (fun s =>
      match decodeMpdu s.build.variant rxbuf declaredLength with
      | .error e => .next (s.complete (.decodeError e))
      | .ok f =>
        (callIfPresent invoke (.dataIndication f.indication) s).andThen fun s => .next (s.complete .ok)) s

/-! ## CCA and ED -/

/-- CCA.req (R184). -/
def ccaReqBody (invoke : Invoke) (s : State) : Result :=
  gated .upper .cca .request
    (fun s =>
      let s := s.noteRequest .cca
      if s.trxState ≠ .rxOn then callAndFinish invoke (.ccaConfirm s.trxState.code) s
      else callAndFinish invoke .ccaRequest s) s

/-- CCA.cnf (R185). -/
def ccaCnfBody (invoke : Invoke) (status : Status) (s : State) : Result :=
  gated .lower .cca .confirm (confirmAndFinish invoke (.ccaConfirm status)) s

/-- ED.req (R187). -/
def edReqBody (invoke : Invoke) (s : State) : Result :=
  gated .upper .ed .request
    (fun s =>
      let s := s.noteRequest .ed
      if s.trxState ≠ .rxOn then callAndFinish invoke (.edConfirm s.trxState.code 0#8) s
      else callAndFinish invoke .edRequest s) s

/-- ED.cnf (R188). -/
def edCnfBody (invoke : Invoke) (status : Status) (energyLevel : Byte) (s : State) : Result :=
  gated .lower .ed .confirm (confirmAndFinish invoke (.edConfirm status energyLevel)) s

end Machine
end Sys2Proof
end

