-- ==== Sys2Proof/Machine/Handlers.lean ====
section
/-!
DEFINITION. How a called handler runs (00_scope.md R12, 41_sap_registry.md R157): it takes the next
reply of the environment and issues that reply's commands, each of which runs to completion against
the state as it then stands, and then returns. The recursion is on a depth; a handler at depth 0 has no
reply left to take, since every reply taken uses one up and the depth is at first their number
(Laws/Handlers.lean proves that the depth never matters).
-/

namespace Sys2Proof
namespace Machine

/-- The effect of a command, over the way a called handler runs. -/
def runInstr (invoke : Invoke) (i : Instr) (s : State) : Result :=
  match i with
  | .dataReq r => dataReqBody invoke r s
  | .ccaReq => ccaReqBody invoke s
  | .edReq => edReqBody invoke s
  | .getReq attr => getReqBody invoke attr s
  | .setTrxReq target => setTrxReqBody invoke target s
  | .setReq attr value => setReqBody invoke attr value s
  | .dataCnf status => dataCnfBody invoke status s
  | .dataInd rxbuf declaredLength => dataIndBody invoke rxbuf declaredLength s
  | .ccaCnf status => ccaCnfBody invoke status s
  | .edCnf status energyLevel => edCnfBody invoke status energyLevel s
  | .getCnf status attr value => getCnfBody invoke status attr value s
  | .setTrxCnf status => setTrxCnfBody invoke status s
  | .setCnf status attr => setCnfBody invoke status attr s
  | .bindU svc role handler => execBindU svc role handler s
  | .bindL svc role handler => execBindL svc role handler s
  | .decodeFrame rxbuf declaredLength => execDecodeFrame rxbuf declaredLength s
  | .encodeFrame r => execEncodeFrame r s
  | .ptqAdd handle kind ackRequired => execPtqAdd handle kind ackRequired s
  | .ptqRemove handle => execPtqRemove handle s

/-- What a rejected octet string does: an illegal command byte completes `CmdIllegal` with no other
effect (R156); what is no command and operand record at all is refused (log 15). -/
def runRejected (e : CommandError) (s : State) : Result :=
  match e with
  | .illegalCommand _ => .next (s.complete .cmdIllegal)
  | .noCommandByte => .refused .noCommandByte
  | .operandsMissing => .refused .operandsMissing
  | .operandOutOfRange => .refused .operandOutOfRange

/-- One command as presented, over the effect of a decoded one. -/
def runOctets (run : Instr → State → Result) (octets : Octets) (s : State) : Result :=
  match decode octets with
  | .ok (i, _) => run i s
  | .error e => runRejected e s

/-- The commands a handler issues, in order (R157). -/
def runAll (run : Instr → State → Result) : List Octets → State → Result
  | [], s => .next s
  | c :: cs, s => (runOctets run c s).andThen (runAll run cs)

/-- The handler returns, or hangs the command that called it (R159). -/
def handlerReturns (reply : Reply) (s : State) : Result :=
  if reply.returns then .next s else .fault .handlerNeverReturned

/-- Take the next reply off the environment's list. -/
def State.dropReply (s : State) : State := s.setEnv { s.env with replies := s.env.replies.tail }

/-- An OutCall at a nesting depth: the event, then the next reply's commands and the return. -/
def runHandler : Nat → Invoke
  | 0, call, s => .next (s.emit call)
  | depth + 1, call, s =>
    match s.env.replies with
    | [] => .next (s.emit call)
    | reply :: _ =>
      (runAll (runInstr (runHandler depth)) reply.commands (s.emit call).dropReply).andThen
        (handlerReturns reply)

/-- An OutCall in a state: the depth is the number of replies there are. -/
def invokeHandler : Invoke := fun call s => runHandler s.env.replies.length call s

end Machine
end Sys2Proof
end

