-- ==== Sys2Proof/Machine/Primitives.lean ====
section
/-!
DEFINITION. The meanings of the thirteen SAP primitives: their bodies with the handlers of the state's
environment.
-/

namespace Sys2Proof
namespace Machine

/-- DATA.req, 0x00 (R175 to R180). -/
def execDataReq (r : EncodeRequest) (s : State) : Result := dataReqBody invokeHandler r s
/-- CCA.req, 0x04 (R184). -/
def execCcaReq (s : State) : Result := ccaReqBody invokeHandler s
/-- ED.req, 0x08 (R187). -/
def execEdReq (s : State) : Result := edReqBody invokeHandler s
/-- GET.req, 0x0C (R200). -/
def execGetReq (attr : Byte) (s : State) : Result := getReqBody invokeHandler attr s
/-- SETTRX.req, 0x10 (R170). -/
def execSetTrxReq (target : Status) (s : State) : Result := setTrxReqBody invokeHandler target s
/-- SET.req, 0x14 (R205 to R210). -/
def execSetReq (attr : Byte) (value : BitVec 32) (s : State) : Result := setReqBody invokeHandler attr value s
/-- DATA.cnf, 0x81 (R181). -/
def execDataCnf (status : Status) (s : State) : Result := dataCnfBody invokeHandler status s
/-- DATA.ind, 0x82 (R182). -/
def execDataInd (rxbuf : Octets) (declaredLength : Byte) (s : State) : Result :=
  dataIndBody invokeHandler rxbuf declaredLength s
/-- CCA.cnf, 0x85 (R185). -/
def execCcaCnf (status : Status) (s : State) : Result := ccaCnfBody invokeHandler status s
/-- ED.cnf, 0x89 (R188). -/
def execEdCnf (status : Status) (energyLevel : Byte) (s : State) : Result :=
  edCnfBody invokeHandler status energyLevel s
/-- GET.cnf, 0x8D (R202). -/
def execGetCnf (status : Status) (attr : Byte) (value : BitVec 32) (s : State) : Result :=
  getCnfBody invokeHandler status attr value s
/-- SETTRX.cnf, 0x91 (R173). -/
def execSetTrxCnf (status : Status) (s : State) : Result := setTrxCnfBody invokeHandler status s
/-- SET.cnf, 0x95 (R209). -/
def execSetCnf (status : Status) (attr : Byte) (s : State) : Result := setCnfBody invokeHandler status attr s

end Machine
end Sys2Proof
end

