-- ==== Sys2Proof/Machine/Dispatch.lean ====
section
/-!
DEFINITION. One arm per command of 30_encoding.md R97.
-/

namespace Sys2Proof
namespace Machine

def exec (i : Instr) (s : State) : Host.Outcome State Fault Refusal :=
  match i with
  | .dataReq r => Sys2Proof.Machine.execDataReq r s
  | .ccaReq => Sys2Proof.Machine.execCcaReq s
  | .edReq => Sys2Proof.Machine.execEdReq s
  | .getReq attr => Sys2Proof.Machine.execGetReq attr s
  | .setTrxReq target => Sys2Proof.Machine.execSetTrxReq target s
  | .setReq attr value => Sys2Proof.Machine.execSetReq attr value s
  | .dataCnf status => Sys2Proof.Machine.execDataCnf status s
  | .dataInd rxbuf declaredLength => Sys2Proof.Machine.execDataInd rxbuf declaredLength s
  | .ccaCnf status => Sys2Proof.Machine.execCcaCnf status s
  | .edCnf status energyLevel => Sys2Proof.Machine.execEdCnf status energyLevel s
  | .getCnf status attr value => Sys2Proof.Machine.execGetCnf status attr value s
  | .setTrxCnf status => Sys2Proof.Machine.execSetTrxCnf status s
  | .setCnf status attr => Sys2Proof.Machine.execSetCnf status attr s
  | .bindU svc role handler => Sys2Proof.Machine.execBindU svc role handler s
  | .bindL svc role handler => Sys2Proof.Machine.execBindL svc role handler s
  | .decodeFrame rxbuf declaredLength => Sys2Proof.Machine.execDecodeFrame rxbuf declaredLength s
  | .encodeFrame r => Sys2Proof.Machine.execEncodeFrame r s
  | .ptqAdd handle kind ackRequired => Sys2Proof.Machine.execPtqAdd handle kind ackRequired s
  | .ptqRemove handle => Sys2Proof.Machine.execPtqRemove handle s

end Machine
end Sys2Proof
end

