-- ==== Sys2Proof/Machine/Step.lean ====
section
/-!
DEFINITION. One step: the block takes the next input the outside has presented (00_scope.md R9,
70_reset_and_hazards.md R260, R261). A step is one whole command, with every nested command of its
handlers.
-/

namespace Sys2Proof
namespace Machine

/-- The inbox without its first input. -/
def State.dropInput (s : State) : State := s.setEnv { s.env with inbox := s.env.inbox.tail }

/-- One step. With nothing presented the block waits (R261). The reset input is not a command (R260). -/
def step (s : State) : Host.Outcome State Fault Refusal :=
  match s.env.inbox with
  | [] => .next s
  | .reset :: _ => .next s.dropInput.applyReset
  | .command octets :: _ => runOctets exec octets s.dropInput

/-- The command whose first `nbits` bits are `w`, presented as the next input (log 9). -/
def State.withFetchWord (s : State) (nbits w : Nat) : State :=
  s.setEnv { s.env with inbox := .command (wordOctets nbits w) :: s.env.inbox }

end Machine
end Sys2Proof
end

