-- ==== Sys2Proof/Safety.lean ====
section
/-!
DEFINITION. The terms claims are stated in: the block's registers as one record, the invariant of the
registers, the environments a claim speaks of, the event a Call through a slot leaves, and the runs a
claim about the hardware may speak of (70_reset_and_hazards.md R271).
-/

namespace Sys2Proof
namespace Machine

/-! ## Registers -/

/-- The block's registers, 10_state.md R20, and nothing else. -/
structure Registers where
  trxState   : TrxState
  dsn        : BitVec 8
  dataStatus : Status
  txHandle   : BitVec 8
  upper      : Registry
  lower      : Registry
  pib        : Pib
  ptq        : List PtqEntry
  deriving DecidableEq, Repr

/-- The registers of a state. -/
def State.registers (s : State) : Registers :=
  { trxState := s.trxState, dsn := s.dsn, dataStatus := s.dataStatus, txHandle := s.txHandle,
    upper := s.upper, lower := s.lower, pib := s.pib, ptq := s.ptq }

/-- The registers right after reset (10_state.md R47). -/
def Registers.reset : Registers :=
  { trxState := .trxOff, dsn := 0#8, dataStatus := Status.trxOff, txHandle := 0#8,
    upper := Registry.null, lower := Registry.null, pib := Pib.zero, ptq := [] }

/-- The PIB ranges a model may rely on (R29); the bitmap's is its width. -/
def Pib.inRange (p : Pib) : Prop :=
  p.currentChannel.toNat ≤ Config.channelMax ∧ p.transmitPower.toNat ≤ Config.txPowerMax ∧
  p.ccaMode.toNat ≤ Config.ccaModeMax

/-- The invariant of the registers: the PIB ranges (R29) and the bound of the queue (R30, R220). -/
def State.inv (s : State) : Prop := s.pib.inRange ∧ s.ptq.length ≤ Config.ptqSlots

/-! ## Environments (R12) -/

/-- Every handler still to be called returns without issuing a command. -/
def State.quiet (s : State) : Prop := s.env.replies = []

/-- An octet string the block can be handed: a legal command with its whole operand record, or an
illegal command byte (R99). -/
def presentable (octets : Octets) : Prop :=
  (∃ i rest, decode octets = .ok (i, rest)) ∨ (∃ cmd, decode octets = .error (.illegalCommand cmd))

/-- Every handler still to be called returns (R159) and issues only presentable commands. -/
def Env.wellBehaved (e : Env) : Prop :=
  ∀ reply ∈ e.replies, reply.returns = true ∧ ∀ c ∈ reply.commands, presentable c

/-- No handler still to be called issues a command of the given kinds. -/
def Env.avoids (kind : Opcode → Bool) (e : Env) : Prop :=
  ∀ reply ∈ e.replies, ∀ c ∈ reply.commands, ∀ i rest, decode c = .ok (i, rest) → kind i.opcode = false

/-- The BIND commands. -/
def isBind : Opcode → Bool
  | .bind _ _ _ => true
  | .dataReq | .ccaReq | .edReq | .getReq | .setTrxReq | .setReq => false
  | .dataCnf | .dataInd | .ccaCnf | .edCnf | .getCnf | .setTrxCnf | .setCnf => false
  | .decodeFrame | .encodeFrame | .ptqAdd | .ptqRemove => false

/-- The reply of a driver that answers by one SETTRX.cnf and returns (95_test_vectors.md, "sync driver"). -/
def confirmsTrx (status : Status) : Reply :=
  { commands := [encode (.setTrxCnf status)], returns := true }

/-! ## Slots and events -/

/-- The inbound slot of each SAP primitive (41_sap_registry.md R152); the direct operations and BIND
have none. -/
def inboundSlot : Instr → Option (Inst × Svc × Role)
  | .dataReq _ => some (.upper, .data, .request)
  | .ccaReq => some (.upper, .cca, .request)
  | .edReq => some (.upper, .ed, .request)
  | .getReq _ => some (.upper, .get, .request)
  | .setTrxReq _ => some (.upper, .setTrx, .request)
  | .setReq _ _ => some (.upper, .set, .request)
  | .dataCnf _ => some (.lower, .data, .confirm)
  | .dataInd _ _ => some (.lower, .data, .indication)
  | .ccaCnf _ => some (.lower, .cca, .confirm)
  | .edCnf _ _ => some (.lower, .ed, .confirm)
  | .getCnf _ _ _ => some (.lower, .get, .confirm)
  | .setTrxCnf _ => some (.lower, .setTrx, .confirm)
  | .setCnf _ _ => some (.lower, .set, .confirm)
  | .bindU _ _ _ => none
  | .bindL _ _ _ => none
  | .decodeFrame _ _ => none
  | .encodeFrame _ => none
  | .ptqAdd _ _ _ => none
  | .ptqRemove _ => none

/-- What a Call leaves in the event list: nothing through a NULL slot, else one OutCall with the slot's
handler value (R12, R154). -/
def outEvents (s : State) (args : OutArgs) : List Event :=
  if s.slot args.inst args.svc args.role = 0#32 then []
  else [.out { handler := s.slot args.inst args.svc args.role, args := args }]

/-- How a command ends whose last Call's handler takes `reply` and whose handler's commands answer `inner`:
if the handler returns, the registers, inputs and events are as it left them, and the command completes
with None; else the command ends as the handler does (R12, R157, R159). -/
def endsAfterHandler (reply : Reply) (inner outer : Result) : Prop :=
  match inner with
  | .next t =>
    if reply.returns = true then
      ∃ u, outer = .next u ∧ u.registers = t.registers ∧ u.env = t.env ∧ u.build = t.build ∧
        u.events = t.events ++ [Event.completed .none]
    else outer = .fault .handlerNeverReturned
  | .fault e => outer = .fault e
  | .refused e => outer = .refused e

/-- What resolving a handle does to the queue (44_ptq.md R223): the first entry with the handle goes, the
others stay in their order. -/
def resolves (handle : Byte) (before after : List PtqEntry) : Prop :=
  ((∀ e ∈ before, e.handle ≠ handle) → after = before) ∧
  ∀ earlier e later, before = earlier ++ e :: later → (∀ x ∈ earlier, x.handle ≠ handle) →
    e.handle = handle → after = earlier ++ later

/-! ## The in-flight rule (70_reset_and_hazards.md R271; log 17) -/

/-- The event hands a Request of the service to the driver. -/
def Event.forwards (svc : Svc) : Event → Bool
  | .out call => decide (call.args.role = .request ∧ call.args.svc = svc)
  | .completed _ => false

/-- The services of which a command makes a request of its own: the service of a Request primitive, and
SETTRX in DATA.req and DATA.cnf ("The internal SETTRX requests of DATA.req and DATA.cnf count"). -/
def requestsOf : Instr → List Svc
  | .dataReq _ => [.data, .setTrx]
  | .ccaReq => [.cca]
  | .edReq => [.ed]
  | .getReq _ => [.get]
  | .setTrxReq _ => [.setTrx]
  | .setReq _ _ => [.set]
  | .dataCnf _ => [.setTrx]
  | .dataInd _ _ => []
  | .ccaCnf _ => []
  | .edCnf _ _ => []
  | .getCnf _ _ _ => []
  | .setTrxCnf _ => []
  | .setCnf _ _ => []
  | .bindU _ _ _ => []
  | .bindL _ _ _ => []
  | .decodeFrame _ _ => []
  | .encodeFrame _ => []
  | .ptqAdd _ _ _ => []
  | .ptqRemove _ => []

/-! ## Runs -/

/-- A run of `k` steps that keeps the precondition "one request in flight per slot": only of such runs
is a claim about this model a claim about the hardware (R271, U1; log 6). -/
def soundRun (k : Nat) (s t : State) : Prop :=
  Host.Core.run Sys2Proof.core k s = .next t ∧ t.ghost.doubleIssue = false

end Machine
end Sys2Proof
end

