-- ==== Sys2Proof/Certificates/Slice0/Obligations.lean ====
section
/-!
DEFINITION. The statements for the provers. `quiet` means that no handler still to be called issues a
command; the statements about `exec` with handlers that do are under "Whole-machine rules".
-/

open Sys2Proof Sys2Proof.Machine

/-! ## Command octets (30_encoding.md R95 to R99; layout: log 1) -/

/-- Decoding an encoded well-formed command gives it back, with every operand at every value its width
admits, and leaves what follows it. The octet layout of operand records is the model's (log 1). -/
def Obligations.CommandRoundTrip : Prop :=
  ∀ (i : Instr) (rest : Octets), i.wellFormed = true → decode (encode i ++ rest) = .ok (i, rest)

/-- The other direction: a string that decodes is the encoding of a well-formed command, and a rest.
The octet layout of operand records is the model's (log 1). -/
def Obligations.DecodedCommandReencodes : Prop :=
  ∀ (bs : Octets) (i : Instr) (rest : Octets), decode bs = .ok (i, rest) →
    i.wellFormed = true ∧ encode i ++ rest = bs

/-- The illegal command bytes are exactly those R99 lists, whatever operands come with them. -/
def Obligations.IllegalCommandBytes : Prop :=
  ∀ (cmd : Byte) (operands : Octets),
    decode (cmd :: operands) = .error (.illegalCommand cmd) ↔
      (cmd.toNat / 32 % 4 = 3) ∨
      (cmd.toNat / 32 % 4 = 0 ∧ (5 < cmd.toNat / 4 % 8 ∨ cmd.toNat % 4 = 3)) ∨
      (cmd.toNat / 32 % 4 = 0 ∧ cmd.toNat / 128 = 0 ∧ cmd.toNat % 4 ≠ 0) ∨
      (cmd.toNat / 32 % 4 = 0 ∧ cmd.toNat / 128 = 1 ∧
        (cmd.toNat % 4 = 0 ∨ (cmd.toNat % 4 = 2 ∧ cmd.toNat / 4 % 8 ≠ 0))) ∨
      (cmd.toNat / 32 % 4 = 1 ∧ (5 < cmd.toNat / 4 % 8 ∨ cmd.toNat % 4 = 3)) ∨
      (cmd.toNat / 32 % 4 = 2 ∧ (3 < cmd.toNat % 32 ∨ cmd.toNat / 128 = 1))

/-- A few words of the table, written out from R95 to R97, decode to the commands they stand for. -/
def Obligations.CommandWordsOfTheTable : Prop :=
  decode [0x04#8] = .ok (.ccaReq, []) ∧
  decode [0x10#8, 0x06#8] = .ok (.setTrxReq Status.rxOn, []) ∧
  decode [0x14#8, 0x02#8, 0xBF#8, 0x00#8, 0x00#8, 0x00#8] = .ok (.setReq 0x02#8 0xBF#32, []) ∧
  decode [0x91#8, 0x09#8] = .ok (.setTrxCnf Status.txOn, []) ∧
  decode [0x21#8, 0x01#8, 0x10#8, 0x00#8, 0x00#8] = .ok (.bindU .data .confirm 0x1001#32, []) ∧
  decode [0xB1#8, 0x02#8, 0x00#8, 0x00#8, 0x00#8] = .ok (.bindL .setTrx .confirm 2#32, []) ∧
  decode [0x42#8, 0x05#8, 0x00#8, 0x01#8] = .ok (.ptqAdd 5#8 .data true, []) ∧
  decode [0x40#8, 0x02#8, 0x00#8, 0x04#8, 0x01#8, 0x00#8] = .ok (.decodeFrame [0x01#8, 0x00#8] 4#8, [])

/-! ## Steps -/

/-- A step whose next input is a command runs the decoded command on the state with that input taken. -/
def Obligations.StepRunsDecodedCommand : Prop :=
  ∀ (s : State) (octets : Octets) (more : List Input) (i : Instr) (rest : Octets),
    s.env.inbox = .command octets :: more → decode octets = .ok (i, rest) →
      step s = exec i { s with env := { s.env with inbox := more } }

/-- An illegal command changes no register, makes no Call, and completes with CmdIllegal (R156). -/
def Obligations.IllegalCommandHasNoEffect : Prop :=
  ∀ (s : State) (cmd : Byte) (operands : Octets) (more : List Input),
    s.env.inbox = .command (cmd :: operands) :: more →
    decode (cmd :: operands) = .error (.illegalCommand cmd) →
      step s = .next { s with
        env := { s.env with inbox := more }
        events := s.events ++ [Event.completed .cmdIllegal] }

/-- With nothing presented the block waits: the state stays as it is (R261, log 9). -/
def Obligations.WaitsWhenNothingPresented : Prop :=
  ∀ s : State, s.env.inbox = [] → step s = .next s

/-- The reset input writes every register with its reset value, makes no Call and no completion, and
touches nothing outside the block (R260, R47; the values other than that of `dsn` are the spec's own
decisions D21 to D23, D28, D29, D34, log 7; that it leaves inputs, outputs and ghost bits alone is the
model's, log 8). The state after power-on reset has the same registers. -/
def Obligations.ResetInputRestoresRegisters : Prop :=
  State.reset.registers =
    { trxState := .trxOff, dsn := 0#8, dataStatus := Status.trxOff, txHandle := 0#8,
      upper := Registry.null, lower := Registry.null, pib := Pib.zero, ptq := [] } ∧
  (∀ inst svc role, State.reset.slot inst svc role = 0#32) ∧
  ∀ (s : State) (more : List Input), s.env.inbox = .reset :: more →
    ∃ t, step s = .next t ∧ t.registers = State.reset.registers ∧
      t.env = { s.env with inbox := more } ∧ t.build = s.build ∧ t.events = s.events ∧ t.ghost = s.ghost

/-- The invariant of the registers (the PIB ranges of R29, at most ten queue entries) holds at reset. -/
def Obligations.InvariantAtReset : Prop := State.reset.inv

/-- Every step keeps the invariant of the registers, whatever the handlers do. -/
def Obligations.InvariantKeptByStep : Prop :=
  ∀ s t : State, s.inv → step s = .next t → t.inv

/-! ## Registry (41_sap_registry.md) -/

/-- BIND on either instance: its command byte is 0x20 (0xA0) + 4*svc + role; it writes that one slot,
whatever the slot held before, and nothing else, and completes with None (R150). -/
def Obligations.BindWritesOneSlot : Prop :=
  ∀ (svc : Svc) (role : Role) (handler : Handler) (s : State),
    (encode (.bindU svc role handler)).head? =
      some (BitVec.ofNat 8 (0x20 + 4 * svc.number + role.number)) ∧
    (encode (.bindL svc role handler)).head? =
      some (BitVec.ofNat 8 (0xA0 + 4 * svc.number + role.number)) ∧
    (∃ t, exec (.bindU svc role handler) s = .next t ∧
      t.registers = { s.registers with upper := t.upper } ∧
      (∀ svc' role', t.slot .upper svc' role' =
        if svc' = svc ∧ role' = role then handler else s.slot .upper svc' role') ∧
      t.env = s.env ∧ t.build = s.build ∧ t.ghost = s.ghost ∧
      t.events = s.events ++ [Event.completed .none]) ∧
    (∃ t, exec (.bindL svc role handler) s = .next t ∧
      t.registers = { s.registers with lower := t.lower } ∧
      (∀ svc' role', t.slot .lower svc' role' =
        if svc' = svc ∧ role' = role then handler else s.slot .lower svc' role') ∧
      t.env = s.env ∧ t.build = s.build ∧ t.ghost = s.ghost ∧
      t.events = s.events ++ [Event.completed .none])

/-- Binding a slot that no primitive uses (the Indication slots of the services other than Data, on either
instance; R26, R150) has no effect on what a command other than BIND does, with handlers that issue no
command. That these slots exist, can be bound and are inert is the spec's decision D38, from general
knowledge (log 20). -/
def Obligations.UnusedSlotsHaveNoEffect : Prop :=
  ∀ (inst : Inst) (svc : Svc) (handler : Handler) (i : Instr) (s : State),
    svc ≠ .data → s.quiet → isBind i.opcode = false →
      exec i (s.bindSlot inst svc .indication handler) =
        Result.andThen (exec i s) fun t => .next (t.bindSlot inst svc .indication handler)

/-- A SAP primitive whose inbound slot is NULL has no effect at all and completes with None (R153). -/
def Obligations.NullInboundSlotIsSilent : Prop :=
  ∀ (i : Instr) (inst : Inst) (svc : Svc) (role : Role) (s : State),
    inboundSlot i = some (inst, svc, role) → s.slot inst svc role = 0#32 →
      exec i s = .next { s with events := s.events ++ [Event.completed .none] }

/-- Call-if-present (R12, R154, R155): through a NULL slot nothing happens; otherwise one OutCall is
emitted and the handler's commands run, by `exec` itself, before it returns. The list of replies is the
model's form of the environment (log 2); a handler that does not return hangs the command (log 3). -/
def Obligations.CallRunsHandlerCommands : Prop :=
  ∀ (args : OutArgs) (s : State),
    (s.slot args.inst args.svc args.role = 0#32 → callIfPresent invokeHandler args s = .next s) ∧
    (s.slot args.inst args.svc args.role ≠ 0#32 → s.env.replies = [] →
      callIfPresent invokeHandler args s =
        .next (s.emit { handler := s.slot args.inst args.svc args.role, args := args })) ∧
    (∀ reply rest, s.slot args.inst args.svc args.role ≠ 0#32 → s.env.replies = reply :: rest →
      callIfPresent invokeHandler args s =
        Result.andThen
          (runAll exec reply.commands
            { s.emit { handler := s.slot args.inst args.svc args.role, args := args } with
              env := { s.env with replies := rest } })
          (fun m => if reply.returns then .next m else .fault .handlerNeverReturned))

/-! ## SETTRX (42_trx_state_machine.md R170 to R174) -/

/-- SETTRX.req, command byte 0x10: forwarded to the driver for exactly the four targets of R171, else an
immediate confirm with `BUSY_RX`; no register changes (R170, R171). That the target is the one octet after
the command byte is the model's operand layout (DESIGN CHOICE, log 1). -/
def Obligations.SetTrxRequestForwardedOrRefused : Prop :=
  (∀ target : Status, encode (.setTrxReq target) = [0x10#8, target]) ∧
  ∀ (target : Status) (s : State), s.quiet → s.slot .upper .setTrx .request ≠ 0#32 →
    ∃ t, exec (.setTrxReq target) s = .next t ∧ t.registers = s.registers ∧ t.env = s.env ∧
      t.build = s.build ∧
      (target ∈ [Status.rxOn, Status.trxOff, Status.txOn, Status.forceTrxOff] →
        t.events = s.events ++ outEvents s (.setTrxRequest target) ++ [Event.completed .none]) ∧
      (target ∉ [Status.rxOn, Status.trxOff, Status.txOn, Status.forceTrxOff] →
        t.events = s.events ++ outEvents s (.setTrxConfirm Status.busyRx) ++ [Event.completed .none])

/-- SETTRX.cnf: a status that is one of the six states becomes the tracked state, any other leaves it
(the spec's decision D24); the confirm is passed on in every case, after the write: the upper handler's
commands run from a state with the new tracked state (R173). The three cases of the environment are: no
handler is called, or it issues no command; it takes a reply. -/
def Obligations.SetTrxConfirmTracksState : Prop :=
  ∀ (status : Status) (s : State), s.slot .lower .setTrx .confirm ≠ 0#32 →
    (s.quiet ∨ s.slot .upper .setTrx .confirm = 0#32 →
      ∃ t, exec (.setTrxCnf status) s = .next t ∧
        (∀ state : TrxState, state.code = status →
          t.registers = { s.registers with trxState := state }) ∧
        ((∀ state : TrxState, state.code ≠ status) → t.registers = s.registers) ∧
        t.env = s.env ∧ t.build = s.build ∧
        t.events = s.events ++ outEvents s (.setTrxConfirm status) ++ [Event.completed .none]) ∧
    (∀ reply rest, s.slot .upper .setTrx .confirm ≠ 0#32 → s.env.replies = reply :: rest →
      ∃ m : State,
        (∀ state : TrxState, state.code = status →
          m.registers = { s.registers with trxState := state }) ∧
        ((∀ state : TrxState, state.code ≠ status) → m.registers = s.registers) ∧
        m.env = { s.env with replies := rest } ∧ m.build = s.build ∧
        m.events = s.events ++ outEvents s (.setTrxConfirm status) ∧
        endsAfterHandler reply (runAll exec reply.commands m) (exec (.setTrxCnf status) s))

/-! ## DATA (R175 to R182) -/

/-- DATA.req in a state other than Off: no encode, no driver call, no queue entry; the current state is
recorded and confirmed (R176; that `dataStatus` is written is the spec's decision D29). -/
def Obligations.DataRequestRefusedUnlessOff : Prop :=
  ∀ (r : EncodeRequest) (s : State), s.quiet → s.slot .upper .data .request ≠ 0#32 →
    s.trxState ≠ .trxOff →
    ∃ t, exec (.dataReq r) s = .next t ∧
      t.registers = { s.registers with dataStatus := s.trxState.code } ∧
      t.env = s.env ∧ t.build = s.build ∧
      t.events = s.events ++ outEvents s (.dataConfirm s.trxState.code) ++ [Event.completed .none]

/-- DATA.req in Off with a payload above 127 octets (R177; code and record are the spec's decisions D27
and D29). -/
def Obligations.DataRequestRefusedOversize : Prop :=
  ∀ (r : EncodeRequest) (s : State), s.quiet → s.slot .upper .data .request ≠ 0#32 →
    s.trxState = .trxOff → 127 < r.payload.length →
    ∃ t, exec (.dataReq r) s = .next t ∧
      t.registers = { s.registers with dataStatus := Status.frameTooLong } ∧
      t.env = s.env ∧ t.build = s.build ∧
      t.events = s.events ++ outEvents s (.dataConfirm Status.frameTooLong) ++ [Event.completed .none]

/-- DATA.req whose transition to `TX_ON` is not confirmed on return: the request to the driver is all the
block does; it encodes nothing, writes no register and gives no confirm (R179, the spec's decision D26).
First with no handler that issues a command; then for every driver, whatever its handler does and leaves,
if the tracked state is not `TX_ON` when it has returned; then the driver that confirms another status
from inside its handler. -/
def Obligations.DataRequestVanishesUnconfirmed : Prop :=
  ∀ (r : EncodeRequest) (s : State), s.slot .upper .data .request ≠ 0#32 →
    s.trxState = .trxOff → r.payload.length ≤ 127 →
    (s.quiet ∨ s.slot .lower .setTrx .request = 0#32 →
      ∃ t, exec (.dataReq r) s = .next t ∧ t.registers = s.registers ∧ t.env = s.env ∧
        t.build = s.build ∧
        t.events = s.events ++ outEvents s (.setTrxRequest Status.txOn) ++ [Event.completed .none]) ∧
    (∀ reply rest, s.slot .lower .setTrx .request ≠ 0#32 → s.env.replies = reply :: rest →
      ∃ m : State, m.registers = s.registers ∧ m.env = { s.env with replies := rest } ∧
        m.build = s.build ∧ m.events = s.events ++ outEvents s (.setTrxRequest Status.txOn) ∧
        ∀ t, runAll exec reply.commands m = .next t → t.trxState ≠ .txOn →
          endsAfterHandler reply (.next t) (exec (.dataReq r) s)) ∧
    (∀ status : Status, s.slot .lower .setTrx .request ≠ 0#32 → s.slot .lower .setTrx .confirm ≠ 0#32 →
      s.env.replies = [confirmsTrx status] → status ≠ Status.txOn →
      ∃ t, exec (.dataReq r) s = .next t ∧
        (∀ state : TrxState, state.code = status →
          t.registers = { s.registers with trxState := state }) ∧
        ((∀ state : TrxState, state.code ≠ status) → t.registers = s.registers) ∧
        t.env = { s.env with replies := [] } ∧ t.build = s.build ∧
        t.events = s.events ++ outEvents s (.setTrxRequest Status.txOn) ++
          outEvents s (.setTrxConfirm status) ++ [Event.completed .none, Event.completed .none])

/-- The data path with a driver that confirms `TX_ON` from inside its handler: DATA.req encodes the
request with the current sequence number, wraps it, records handle, queue entry and status, and hands the
PPDU to the driver (R178, R180; order and record are the spec's decisions D28, D44). The upper layer sees
the SETTRX confirm it did not ask for (R279). -/
def Obligations.DataRequestTransmits : Prop :=
  ∀ (r : EncodeRequest) (s : State),
    s.slot .upper .data .request ≠ 0#32 → s.slot .lower .setTrx .request ≠ 0#32 →
    s.slot .lower .setTrx .confirm ≠ 0#32 → s.trxState = .trxOff → r.payload.length ≤ 127 →
    s.env.replies = [confirmsTrx Status.txOn] →
    ∃ t now, exec (.dataReq r) s = .next t ∧
      (∀ x xs, s.env.timeInput = x :: xs → now = x) ∧
      t.registers =
        { s.registers with
          trxState := .txOn
          dsn := s.dsn + 1#8
          dataStatus := Status.txOn
          txHandle := r.handle
          ptq := if s.ptq.length = 10 then s.ptq
            else s.ptq ++ [{ handle := r.handle, kind := .data,
                             ackRequired := r.txOptions.getLsbD 0 || r.txOptions.getLsbD 1,
                             timestamp := now }] } ∧
      t.build = s.build ∧
      t.events = s.events ++ outEvents s (.setTrxRequest Status.txOn) ++
        outEvents s (.setTrxConfirm Status.txOn) ++ [Event.completed .none] ++
        outEvents s (.dataRequest
          (ppduWrap (encodeMpdu s.build.manualFcs Config.fcs16 s.dsn r))
          (BitVec.ofNat 9 ((encodeMpdu s.build.manualFcs Config.fcs16 s.dsn r).length + 6))) ++
        [Event.completed .none]

/-- DATA.cnf: requests `RX_ON` whatever the state and the status, resolves the first entry with the
handle last forwarded, records the status and passes it on (R181; which entry is resolved, and when, are
the spec's decisions D28 and D29). -/
def Obligations.DataConfirmResolvesEntry : Prop :=
  ∀ (status : Status) (s : State), s.quiet → s.slot .lower .data .confirm ≠ 0#32 →
    ∃ t, exec (.dataCnf status) s = .next t ∧
      t.registers = { s.registers with dataStatus := status, ptq := t.ptq } ∧
      ((∀ e ∈ s.ptq, e.handle ≠ s.txHandle) → t.ptq = s.ptq) ∧
      (∀ before e later, s.ptq = before ++ e :: later → (∀ x ∈ before, x.handle ≠ s.txHandle) →
        e.handle = s.txHandle → t.ptq = before ++ later) ∧
      t.env = s.env ∧ t.build = s.build ∧
      t.events = s.events ++ outEvents s (.setTrxRequest Status.rxOn) ++ outEvents s (.dataConfirm status) ++
        [Event.completed .none]

/-- A driver that delivers DATA.cnf from inside its transmit handler is served: the entry made by the
same DATA.req is resolved, and `dataStatus` ends as the confirm's status (R285, R178; the order that makes
it so is the spec's decision D44). -/
def Obligations.ConfirmInsideTransmitResolves : Prop :=
  ∀ (r : EncodeRequest) (status : Status) (s : State),
    s.slot .upper .data .request ≠ 0#32 → s.slot .lower .setTrx .request ≠ 0#32 →
    s.slot .lower .setTrx .confirm ≠ 0#32 → s.slot .lower .data .request ≠ 0#32 →
    s.slot .lower .data .confirm ≠ 0#32 → s.trxState = .trxOff → r.payload.length ≤ 127 →
    s.ptq.length < 10 → (∀ e ∈ s.ptq, e.handle ≠ r.handle) →
    s.env.replies =
      confirmsTrx Status.txOn ::
        ((if s.slot .upper .setTrx .confirm = 0#32 then [] else [{ commands := [], returns := true }]) ++
          [{ commands := [encode (.dataCnf status)], returns := true }]) →
    ∃ t, exec (.dataReq r) s = .next t ∧
      t.registers =
        { s.registers with
          trxState := .txOn, dsn := s.dsn + 1#8, dataStatus := status, txHandle := r.handle }

/-- DATA.ind: the decoded frame is dispatched upward, or the decode error is the completion and nothing
is dispatched; no register changes in either case (R182). -/
def Obligations.DataIndicationDispatchesFrame : Prop :=
  ∀ (rxbuf : Octets) (declaredLength : Byte) (s : State), s.quiet →
    s.slot .lower .data .indication ≠ 0#32 →
    ∃ t, exec (.dataInd rxbuf declaredLength) s = .next t ∧ t.registers = s.registers ∧
      t.env = s.env ∧ t.build = s.build ∧ t.ghost = s.ghost ∧
      (∀ e, decodeMpdu s.build.variant rxbuf declaredLength = .error e →
        t.events = s.events ++ [Event.completed (.decodeError e)]) ∧
      (∀ f, decodeMpdu s.build.variant rxbuf declaredLength = .ok f →
        t.events = s.events ++
          outEvents s (.dataIndication
            { srcMode := f.srcMode, srcPan := f.srcPan, srcAddr := f.srcAddr, dstMode := f.dstMode,
              dstPan := f.dstPan, dstAddr := f.dstAddr, payloadLen := BitVec.ofNat 8 f.payload.length,
              payload := f.payload, linkQuality := f.lqi, securityUsed := f.securityEnabled }) ++
          [Event.completed .ok])

/-! ## CCA and ED (R184 to R188) -/

/-- CCA.req, no operand: forwarded only in `RX_ON`; in any other state an immediate confirm carries that
state and the driver is not called (R184), with handlers that issue no command. The command byte 0x04 is
the spec's decision D19 (R95, R97; log 18), and the codes of the states its decision D7 (log 18). -/
def Obligations.CcaRequestGatedByState : Prop :=
  encode .ccaReq = [0x04#8] ∧
  ∀ s : State, s.quiet → s.slot .upper .cca .request ≠ 0#32 →
    ∃ t, exec .ccaReq s = .next t ∧ t.registers = s.registers ∧ t.env = s.env ∧ t.build = s.build ∧
      (s.trxState ≠ .rxOn →
        t.events = s.events ++ outEvents s (.ccaConfirm s.trxState.code) ++ [Event.completed .none]) ∧
      (s.trxState = .rxOn → t.events = s.events ++ outEvents s .ccaRequest ++ [Event.completed .none])

/-- ED.req: as CCA.req, the immediate confirm with energy level 0 (R187; the level is the spec's decision
D32). -/
def Obligations.EdRequestGatedByState : Prop :=
  ∀ s : State, s.quiet → s.slot .upper .ed .request ≠ 0#32 →
    ∃ t, exec .edReq s = .next t ∧ t.registers = s.registers ∧ t.env = s.env ∧ t.build = s.build ∧
      (s.trxState ≠ .rxOn →
        t.events = s.events ++ outEvents s (.edConfirm s.trxState.code 0#8) ++ [Event.completed .none]) ∧
      (s.trxState = .rxOn → t.events = s.events ++ outEvents s .edRequest ++ [Event.completed .none])

/-- CCA.cnf, ED.cnf, GET.cnf and SET.cnf are passed on unchanged and change no register (R185, R188, R202,
R209, the spec's decision D32): in particular a failing SET.cnf does not undo a store, and the value of a
GET.cnf is not stored. -/
def Obligations.ConfirmsArePassedOn : Prop :=
  ∀ s : State, s.quiet →
    (∀ status, s.slot .lower .cca .confirm ≠ 0#32 →
      ∃ t, exec (.ccaCnf status) s = .next t ∧ t.registers = s.registers ∧ t.env = s.env ∧
        t.build = s.build ∧
        t.events = s.events ++ outEvents s (.ccaConfirm status) ++ [Event.completed .none]) ∧
    (∀ status energyLevel, s.slot .lower .ed .confirm ≠ 0#32 →
      ∃ t, exec (.edCnf status energyLevel) s = .next t ∧ t.registers = s.registers ∧ t.env = s.env ∧
        t.build = s.build ∧
        t.events = s.events ++ outEvents s (.edConfirm status energyLevel) ++ [Event.completed .none]) ∧
    (∀ status attr value, s.slot .lower .get .confirm ≠ 0#32 →
      ∃ t, exec (.getCnf status attr value) s = .next t ∧ t.registers = s.registers ∧ t.env = s.env ∧
        t.build = s.build ∧
        t.events = s.events ++ outEvents s (.getConfirm status attr value) ++ [Event.completed .none]) ∧
    (∀ status attr, s.slot .lower .set .confirm ≠ 0#32 →
      ∃ t, exec (.setCnf status attr) s = .next t ∧ t.registers = s.registers ∧ t.env = s.env ∧
        t.build = s.build ∧
        t.events = s.events ++ outEvents s (.setConfirm status attr) ++ [Event.completed .none])

/-! ## GET and SET (43_pib.md) -/

/-- GET.req: forwarded for the four attributes, in every transceiver state and without a look at the
store; any other attribute is confirmed at once as unsupported, with value 0 (R200; identifiers and the
confirm's arguments are the spec's decisions D8 and D32). -/
def Obligations.GetRequestForwardedOrUnsupported : Prop :=
  ∀ (attr : Byte) (s : State), s.quiet → s.slot .upper .get .request ≠ 0#32 →
    ∃ t, exec (.getReq attr) s = .next t ∧ t.registers = s.registers ∧ t.env = s.env ∧ t.build = s.build ∧
      (3 < attr.toNat →
        t.events = s.events ++ outEvents s (.getConfirm Status.unsupportedAttribute attr 0#32) ++
          [Event.completed .none]) ∧
      (attr.toNat ≤ 3 → t.events = s.events ++ outEvents s (.getRequest attr) ++ [Event.completed .none])

/-- SET.req with an accepted value: the attribute is stored, nothing else changes, and the driver is
notified after the store, so that the commands its handler issues run from a state with the new value; the
block gives no confirm of its own (R207, R208; the bitmap's test is the spec's decision D33). The cases of
the environment are: no handler is called, or it issues no command; it takes a reply. -/
def Obligations.SetRequestStoresAcceptedValue : Prop :=
  ∀ (attr : Byte) (value : BitVec 32) (stored : Pib) (s : State), s.slot .upper .set .request ≠ 0#32 →
    ((attr = 0x00#8 ∧ value.toNat ≤ 26 ∧ s.pib.channelsSupported.getLsbD value.toNat = true ∧
        stored = { s.pib with currentChannel := value.setWidth 8 }) ∨
      (attr = 0x01#8 ∧ value.toNat < 2 ^ 27 ∧
        stored = { s.pib with channelsSupported := value.setWidth 27 }) ∨
      (attr = 0x02#8 ∧ value.toNat ≤ 0xBF ∧
        stored = { s.pib with transmitPower := value.setWidth 8 }) ∨
      (attr = 0x03#8 ∧ value.toNat ≤ 0xBF ∧
        stored = { s.pib with ccaMode := value.setWidth 8 })) →
    (s.quiet ∨ s.slot .lower .set .request = 0#32 →
      ∃ t, exec (.setReq attr value) s = .next t ∧
        t.registers = { s.registers with pib := stored } ∧ t.env = s.env ∧ t.build = s.build ∧
        t.events = s.events ++ outEvents s (.setRequest attr value) ++ [Event.completed .none]) ∧
    (∀ reply rest, s.slot .lower .set .request ≠ 0#32 → s.env.replies = reply :: rest →
      ∃ m : State, m.registers = { s.registers with pib := stored } ∧
        m.env = { s.env with replies := rest } ∧ m.build = s.build ∧
        m.events = s.events ++ outEvents s (.setRequest attr value) ∧
        endsAfterHandler reply (runAll exec reply.commands m) (exec (.setReq attr value) s))

/-- SET.req with a value that fails its test, or an unknown attribute: no register changes, the driver is
not called, and the status is confirmed at once (R206, R207, R233 rows 6 to 8; the status of an unknown
attribute is the spec's decision D33). -/
def Obligations.SetRequestRejectsOutOfRange : Prop :=
  ∀ (attr : Byte) (value : BitVec 32) (s : State), s.quiet → s.slot .upper .set .request ≠ 0#32 →
    (3 < attr.toNat →
      ∃ t, exec (.setReq attr value) s = .next t ∧ t.registers = s.registers ∧ t.env = s.env ∧
        t.build = s.build ∧
        t.events = s.events ++ outEvents s (.setConfirm Status.unsupportedAttribute attr) ++
          [Event.completed .none]) ∧
    ((attr = 0x00#8 ∧ (26 < value.toNat ∨ s.pib.channelsSupported.getLsbD value.toNat = false)) ∨
      (attr = 0x01#8 ∧ 2 ^ 27 ≤ value.toNat) ∨
      ((attr = 0x02#8 ∨ attr = 0x03#8) ∧ 0xBF < value.toNat) →
      ∃ t, exec (.setReq attr value) s = .next t ∧ t.registers = s.registers ∧ t.env = s.env ∧
        t.build = s.build ∧
        t.events = s.events ++ outEvents s (.setConfirm Status.invalidParameter attr) ++
          [Event.completed .none])

/-! ## Pending transaction queue (44_ptq.md) -/

/-- PTQ.ADD: a new last entry with the time sampled, or, with ten entries, nothing (R221; the completion
results are the spec's decision D34). A listed `timeNow` sample is the one used; beyond the list the time
is free (log 4). -/
def Obligations.AddAppendsUnlessFull : Prop :=
  ∀ (handle : Byte) (kind : TxKind) (ackRequired : Bool) (s : State),
    ∃ t now, exec (.ptqAdd handle kind ackRequired) s = .next t ∧
      (∀ x xs, s.env.timeInput = x :: xs → now = x) ∧
      t.registers = { s.registers with ptq := t.ptq } ∧
      t.env.inbox = s.env.inbox ∧ t.env.replies = s.env.replies ∧ t.build = s.build ∧
      t.ghost = s.ghost ∧
      (s.ptq.length = 10 → t.ptq = s.ptq ∧ t.events = s.events ++ [Event.completed .droppedFull]) ∧
      (s.ptq.length ≠ 10 →
        t.ptq = s.ptq ++ [{ handle := handle, kind := kind, ackRequired := ackRequired, timestamp := now }] ∧
        t.events = s.events ++ [Event.completed .stored])

/-- PTQ.REMOVE: the first entry with the handle goes, the later ones move one place down, those before
stay; with no such entry nothing changes (R223; the completion results are the spec's decision D34). -/
def Obligations.RemoveTakesFirstMatch : Prop :=
  ∀ (handle : Byte) (s : State),
    (∀ before e later, s.ptq = before ++ e :: later → (∀ x ∈ before, x.handle ≠ handle) →
      e.handle = handle →
      exec (.ptqRemove handle) s =
        .next { s with ptq := before ++ later, events := s.events ++ [Event.completed .found] }) ∧
    ((∀ e ∈ s.ptq, e.handle ≠ handle) →
      exec (.ptqRemove handle) s = .next { s with events := s.events ++ [Event.completed .notFound] })

/-! ## DECODE (40_codec.md) -/

/-- DECODE completes with its Frame or its error and changes no register (R110, R124). -/
def Obligations.DecodeChangesNoRegister : Prop :=
  ∀ (rxbuf : Octets) (declaredLength : Byte) (s : State),
    ∃ c, exec (.decodeFrame rxbuf declaredLength) s =
        .next { s with events := s.events ++ [Event.completed c] } ∧
      (∀ f, decodeMpdu s.build.variant rxbuf declaredLength = .ok f → c = .frame f) ∧
      (∀ e, decodeMpdu s.build.variant rxbuf declaredLength = .error e → c = .decodeError e)

/-- A buffer shorter than the 3-octet header is Truncated, whatever length is declared (R112). -/
def Obligations.ShortBufferIsTruncated : Prop :=
  ∀ (variant : Variant) (rxbuf : Octets) (declaredLength : Byte), rxbuf.length < 3 →
    decodeMpdu variant rxbuf declaredLength = .error .truncated

/-- A Reserved addressing mode (value 1), in the destination or the source field, never decodes: in the
destination field the error is InvalidAddressing, in the source field InvalidAddressing, or Truncated when
the destination fields run off the buffer first (R142, R114, R116). That a mode is tested before the bounds of
its fields is the spec's decision D14 (log 20); that the mode fields are bits 3..2 and 7..6 of octet 1 is the
spec's decisions D1 and D2 (log 18). -/
def Obligations.ReservedModeNeverDecodes : Prop :=
  ∀ (variant : Variant) (o0 o1 o2 : Byte) (rest : Octets) (declaredLength : Byte),
    (o1.toNat / 4 % 4 = 1 →
      decodeMpdu variant (o0 :: o1 :: o2 :: rest) declaredLength = .error .invalidAddressing) ∧
    (o1.toNat / 64 = 1 → o1.toNat / 4 % 4 ≠ 1 →
      decodeMpdu variant (o0 :: o1 :: o2 :: rest) declaredLength =
        .error (if rest.length < (if o1.toNat / 4 % 4 = 0 then 0 else if o1.toNat / 4 % 4 = 2 then 4 else 10)
          then .truncated else .invalidAddressing))

/-- When DECODE succeeds and which error it reports, for a buffer with a header and no Reserved mode (R121
to R124, R238): Truncated when the header runs off the buffer, MalformedLength when the declared length
does not cover it, Truncated when payload and trailer run off the buffer, and else a Frame. The header
includes the auxiliary header (R119, R120) where there is one; its length depends on the octet after the
addressing fields. -/
def Obligations.DecodeOutcomes : Prop :=
  ∀ (variant : Variant) (buf : Octets) (declaredLength : Byte) (fc h n : Nat) (dst src : AddrMode),
    3 ≤ buf.length → fc = leValue (buf.take 2) →
    dst.code.toNat = fc / 1024 % 4 → src.code.toNat = fc / 16384 →
    h = headerLength dst src (fc.testBit 6) →
    n = h + (if variant = .extended ∧ fc.testBit 3 = true
      then 5 + keyIdLength (((buf.drop h).headD 0#8).extractLsb' 3 2) else 0) →
      (buf.length < n → decodeMpdu variant buf declaredLength = .error .truncated) ∧
      (n ≤ buf.length → declaredLength.toNat < n + 1 →
        decodeMpdu variant buf declaredLength = .error .malformedLength) ∧
      (n + 1 ≤ declaredLength.toNat → n ≤ buf.length → buf.length < declaredLength.toNat + 3 →
        decodeMpdu variant buf declaredLength = .error .truncated) ∧
      (n + 1 ≤ declaredLength.toNat → declaredLength.toNat + 3 ≤ buf.length →
        ∃ f, decodeMpdu variant buf declaredLength = .ok f ∧ f.headerLen = n)

/-- Where a successful DECODE found what it reports: lengths and offsets of R80, R111, R122 and R123, the
values of R78, zeros where a mode is Absent (R36), the copied source PAN identifier (R118), the auxiliary
header only in EXTENDED with the security-enabled flag (R119, R120). The zeros of Absent fields, and with
them the copied source PAN identifier when the destination is Absent, are the spec's decision D13 (log 13);
the layout after the payload is its decision D15 (log 20); the octet order is D1 (log 18). -/
def Obligations.DecodedFrameLayout : Prop :=
  ∀ (variant : Variant) (buf : Octets) (declaredLength : Byte) (f : Frame),
    decodeMpdu variant buf declaredLength = .ok f →
      f.headerLen = headerLength f.dstMode f.srcMode f.intraPan +
        (match f.aux with | none => 0 | some a => 5 + a.keyId.length) ∧
      f.headerLen + f.payload.length + 1 = declaredLength.toNat ∧
      f.headerLen + f.payload.length + 4 ≤ buf.length ∧
      f.fc.toNat = leValue (buf.take 2) ∧
      f.seq.toNat = leValue ((buf.drop 2).take 1) ∧
      (f.dstMode = .absent → f.dstPan = 0#16 ∧ f.dstAddr = 0#64) ∧
      (f.dstMode ≠ .absent →
        f.dstPan.toNat = leValue ((buf.drop 3).take 2) ∧
        f.dstAddr.toNat = leValue ((buf.drop 5).take f.dstMode.width)) ∧
      (f.srcMode = .absent → f.srcPan = 0#16 ∧ f.srcAddr = 0#64) ∧
      (f.srcMode ≠ .absent → f.intraPan = true →
        f.srcPan = f.dstPan ∧
        f.srcAddr.toNat = leValue ((buf.drop (3 + dstFieldsLen f.dstMode)).take f.srcMode.width)) ∧
      (f.srcMode ≠ .absent → f.intraPan = false →
        f.srcPan.toNat = leValue ((buf.drop (3 + dstFieldsLen f.dstMode)).take 2) ∧
        f.srcAddr.toNat = leValue ((buf.drop (3 + dstFieldsLen f.dstMode + 2)).take f.srcMode.width)) ∧
      (f.aux = none ↔ variant = .baseline ∨ f.securityEnabled = false) ∧
      (∀ a, f.aux = some a →
        a.secControl.toNat =
          leValue ((buf.drop (headerLength f.dstMode f.srcMode f.intraPan)).take 1) ∧
        a.frameCounter.toNat =
          leValue ((buf.drop (headerLength f.dstMode f.srcMode f.intraPan + 1)).take 4) ∧
        a.keyId.length = keyIdLength (a.secControl.extractLsb' 3 2) ∧
        a.keyId = (buf.drop (headerLength f.dstMode f.srcMode f.intraPan + 5)).take a.keyId.length) ∧
      f.payload = (buf.drop f.headerLen).take f.payload.length ∧
      f.fcs.toNat = leValue ((buf.drop (f.headerLen + f.payload.length)).take 2) ∧
      buf[f.headerLen + f.payload.length + 2]? = some f.lqi ∧
      buf[f.headerLen + f.payload.length + 3]? = some f.rssi

/-- The flags and modes a Frame reports are the bits of its frame control word (R71, R72, R75; the
positions are the spec's decision D2, log 18); modes 0, 2, 3 are Absent, Short16, Extended64 (R74). -/
def Obligations.DecodedFlagsAreFrameControlBits : Prop :=
  ∀ (variant : Variant) (buf : Octets) (declaredLength : Byte) (f : Frame),
    decodeMpdu variant buf declaredLength = .ok f →
      f.frameType.toNat = f.fc.toNat % 8 ∧
      f.securityEnabled = f.fc.getLsbD 3 ∧ f.framePending = f.fc.getLsbD 4 ∧
      f.ackRequest = f.fc.getLsbD 5 ∧ f.intraPan = f.fc.getLsbD 6 ∧
      f.dstMode.code.toNat = f.fc.toNat / 1024 % 4 ∧
      f.srcMode.code.toNat = f.fc.toNat / 16384 ∧
      f.frameVersion.toNat = (if variant = .extended then f.fc.toNat / 4096 % 4 else 0)

/-! ## ENCODE and the PPDU wrapper -/

/-- ENCODE completes with the MPDU written from the current sequence counter, and its length, and advances
the counter by one modulo 256; nothing else changes (R125, R131). -/
def Obligations.EncodeAdvancesSequenceCounter : Prop :=
  ∀ (r : EncodeRequest) (s : State),
    exec (.encodeFrame r) s =
      .next { s with
        dsn := s.dsn + 1#8
        events := s.events ++
          [Event.completed (.mpdu (encodeMpdu s.build.manualFcs Config.fcs16 s.dsn r)
            (BitVec.ofNat 9 (encodeMpdu s.build.manualFcs Config.fcs16 s.dsn r).length))] }

/-- The frame control word ENCODE writes (R126 to R128; the indirect option's flag and the zeros are the
spec's decisions D10 and D12, the substitution for 8-bit modes D37): type Data, the options' flags, both
acknowledged and GTS setting the acknowledgment request, the requested modes with Absent for every mode
other than 2 and 3, every reserved bit 0. -/
def Obligations.EncodedFrameControl : Prop :=
  ∀ (manualFcs : Bool) (fcs16 : Octets → BitVec 16) (dsn : BitVec 8) (r : EncodeRequest),
    leValue ((encodeMpdu manualFcs fcs16 dsn r).take 2) =
      1 + 8 * (r.txOptions.getLsbD 3).toNat + 16 * (r.txOptions.getLsbD 2).toNat +
        32 * (r.txOptions.getLsbD 0 || r.txOptions.getLsbD 1).toNat + 64 * r.intraPan.toNat +
        1024 * (if r.dstMode = 2#8 ∨ r.dstMode = 3#8 then r.dstMode.toNat else 0) +
        16384 * (if r.srcMode = 2#8 ∨ r.srcMode = 3#8 then r.srcMode.toNat else 0)

/-- Where ENCODE puts each field (R77, R80, R129, R131, R133, R134): the offsets of R80, the octet order
of R52, no auxiliary header (R130), and the two-octet footer exactly when MANUAL_FCS is set. -/
def Obligations.EncodedFrameLayout : Prop :=
  ∀ (manualFcs : Bool) (fcs16 : Octets → BitVec 16) (dsn : BitVec 8) (r : EncodeRequest)
    (m : Octets) (dst src : AddrMode) (h : Nat),
    m = encodeMpdu manualFcs fcs16 dsn r → dst = AddrMode.norm r.dstMode → src = AddrMode.norm r.srcMode →
    h = headerLength dst src r.intraPan →
      m.length = h + r.payload.length + (if manualFcs then 2 else 0) ∧
      leValue (m.take 2) = (frameControl dst src r.txOptions r.intraPan).toNat ∧
      m[2]? = some dsn ∧
      (dst ≠ .absent →
        leValue ((m.drop 3).take 2) = r.dstPan.toNat ∧
        leValue ((m.drop 5).take dst.width) = r.dstAddr.toNat % 256 ^ dst.width) ∧
      (src ≠ .absent → r.intraPan = false →
        leValue ((m.drop (3 + dstFieldsLen dst)).take 2) = r.srcPan.toNat) ∧
      (src ≠ .absent →
        leValue ((m.drop (h - src.width)).take src.width) = r.srcAddr.toNat % 256 ^ src.width) ∧
      (m.drop h).take r.payload.length = r.payload ∧
      (manualFcs = true →
        leValue (m.drop (h + r.payload.length)) = (fcs16 (m.take (h + r.payload.length))).toNat)

/-- Sizes (R50; D41): an MPDU has at most 280 octets, at most 152 with a payload DATA.req accepts, and a
PPDU then at most 158. -/
def Obligations.EncodedSizesFitBuffers : Prop :=
  ∀ (manualFcs : Bool) (fcs16 : Octets → BitVec 16) (dsn : BitVec 8) (r : EncodeRequest),
    (r.payload.length ≤ 255 → (encodeMpdu manualFcs fcs16 dsn r).length ≤ 280) ∧
    (r.payload.length ≤ 127 → (encodeMpdu manualFcs fcs16 dsn r).length ≤ 152 ∧
      (ppduWrap (encodeMpdu manualFcs fcs16 dsn r)).length ≤ 158)

/-- The PPDU of a PSDU (R91, R92): four zero octets, 0xA7, the length octet with the length saturated at
127 and its top bit 0, and the whole PSDU. -/
def Obligations.PpduWrapLayout : Prop :=
  ∀ psdu : Octets,
    ∃ phr : Byte, ppduWrap psdu = [0x00#8, 0x00#8, 0x00#8, 0x00#8, 0xA7#8, phr] ++ psdu ∧
      phr.toNat = min psdu.length 127 ∧ phr.getLsbD 7 = false ∧
      (ppduWrap psdu).length = psdu.length + 6

/-- Round trip of the codec (R140): what ENCODE writes, followed by the FCS (unless it wrote it), LQI and
RSSI, decodes to the request's fields, under R140's conditions (i) to (iv). -/
def Obligations.FrameRoundTrip : Prop :=
  ∀ (variant : Variant) (manualFcs : Bool) (fcs16 : Octets → BitVec 16) (dsn : BitVec 8)
    (r : EncodeRequest) (dst src : AddrMode) (footer : Octets) (lqi rssi : Byte),
    r.dstMode.toNat = dst.code.toNat → r.srcMode.toNat = src.code.toNat →
    (dst = .absent → r.dstPan = 0#16 ∧ r.dstAddr = 0#64) →
    (src = .absent → r.srcPan = 0#16 ∧ r.srcAddr = 0#64) →
    (dst = .short16 → r.dstAddr.toNat < 2 ^ 16) → (src = .short16 → r.srcAddr.toNat < 2 ^ 16) →
    (r.intraPan = true → src ≠ .absent → r.srcPan = r.dstPan) →
    (variant = .baseline ∨ r.txOptions.getLsbD 3 = false) →
    (manualFcs = false → footer.length = 2) → (manualFcs = true → footer = []) →
    headerLength dst src r.intraPan + r.payload.length + 1 ≤ 255 →
    ∃ f, decodeMpdu variant (encodeMpdu manualFcs fcs16 dsn r ++ footer ++ [lqi, rssi])
        (BitVec.ofNat 8 (headerLength dst src r.intraPan + r.payload.length + 1)) = .ok f ∧
      f.frameType = 1#3 ∧ f.securityEnabled = r.txOptions.getLsbD 3 ∧
      f.framePending = r.txOptions.getLsbD 2 ∧
      f.ackRequest = (r.txOptions.getLsbD 0 || r.txOptions.getLsbD 1) ∧ f.intraPan = r.intraPan ∧
      f.dstMode = dst ∧ f.srcMode = src ∧ f.dstPan = r.dstPan ∧ f.dstAddr = r.dstAddr ∧
      f.srcPan = r.srcPan ∧ f.srcAddr = r.srcAddr ∧ f.payload = r.payload ∧ f.seq = dsn ∧
      f.headerLen = headerLength dst src r.intraPan ∧ f.lqi = lqi ∧ f.rssi = rssi

/-- `k` ENCODE commands in a row write the sequence numbers `dsn`, `dsn + 1`, … modulo 256, and leave
`dsn + k` (R143): the i-th completion is the MPDU of the i-th request for the counter `dsn + i`. -/
def Obligations.SequenceNumbersOfEncodes : Prop :=
  ∀ (rs : List EncodeRequest) (s : State), (∀ r ∈ rs, r.wellFormed = true) →
    s.env.inbox = rs.map (fun r => Input.command (encode (.encodeFrame r))) →
    ∃ t, Host.Core.run Sys2Proof.core rs.length s = .next t ∧
      t.dsn = s.dsn + BitVec.ofNat 8 rs.length ∧
      t.events.length = s.events.length + rs.length ∧
      ∀ i, (hi : i < rs.length) →
        t.events[s.events.length + i]? =
          some (Event.completed (.mpdu
            (encodeMpdu s.build.manualFcs Config.fcs16 (s.dsn + BitVec.ofNat 8 i) rs[i])
            (BitVec.ofNat 9
              (encodeMpdu s.build.manualFcs Config.fcs16 (s.dsn + BitVec.ofNat 8 i) rs[i]).length)))

/-! ## Whole-machine rules: whatever the handlers do -/

/-- Every command completes, whatever its operands and the state: if the handlers return and issue
presentable commands, `exec` answers a next state, whose event list is the old one, what happened in
between, and a completion as the last event (R13, R235). -/
def Obligations.EveryCommandCompletes : Prop :=
  ∀ (i : Instr) (s : State), s.env.wellBehaved →
    ∃ t between c, exec i s = .next t ∧ t.events = s.events ++ between ++ [Event.completed c]

/-- The tracked state is written by SETTRX.cnf and by nothing else, whatever the handlers do; SETTRX.cnf
can enter each of the six states from any state; and the two busy states cannot be requested: such a
request does not reach the driver (R174). -/
def Obligations.OnlySetTrxConfirmChangesState : Prop :=
  (∀ (i : Instr) (s t : State), i.opcode ≠ .setTrxCnf →
    s.env.avoids (fun op => decide (op = .setTrxCnf)) → exec i s = .next t → t.trxState = s.trxState) ∧
  (∀ (state : TrxState) (s : State), s.quiet → s.slot .lower .setTrx .confirm ≠ 0#32 →
    ∃ t, exec (.setTrxCnf state.code) s = .next t ∧ t.trxState = state) ∧
  (∀ (target : Status) (s : State), target = Status.busyRx ∨ target = Status.busyTx → s.quiet →
    s.slot .upper .setTrx .request ≠ 0#32 →
    ∃ t, exec (.setTrxReq target) s = .next t ∧ t.trxState = s.trxState ∧
      t.events = s.events ++ outEvents s (.setTrxConfirm Status.busyRx) ++ [Event.completed .none])

/-- The sequence counter starts at 0, each ENCODE increments it by one modulo 256, and only ENCODE and
DATA.req write it (R22). -/
def Obligations.OnlyEncodingChangesSequenceCounter : Prop :=
  State.reset.dsn = 0#8 ∧
  (∀ (r : EncodeRequest) (s : State),
    ∃ t, exec (.encodeFrame r) s = .next t ∧ t.dsn.toNat = (s.dsn.toNat + 1) % 256) ∧
  (∀ (i : Instr) (s t : State), i.opcode ≠ .encodeFrame → i.opcode ≠ .dataReq →
    s.env.avoids (fun op => decide (op = .encodeFrame ∨ op = .dataReq)) →
    exec i s = .next t → t.dsn = s.dsn)

/-- The registry is written only by BIND (R25). -/
def Obligations.OnlyBindChangesRegistry : Prop :=
  ∀ (i : Instr) (s t : State), isBind i.opcode = false → s.env.avoids isBind → exec i s = .next t →
    ∀ inst svc role, t.slot inst svc role = s.slot inst svc role

/-- The PIB is written only by SET.req (R28): no GET, no confirm and no data command changes it. -/
def Obligations.OnlySetRequestChangesPib : Prop :=
  ∀ (i : Instr) (s t : State), i.opcode ≠ .setReq →
    s.env.avoids (fun op => decide (op = .setReq)) → exec i s = .next t → t.pib = s.pib

/-- The queue is written only by PTQ.ADD, PTQ.REMOVE, DATA.req and DATA.cnf: no entry is evicted by
anything else (R30, R226). -/
def Obligations.OnlyQueueCommandsChangeQueue : Prop :=
  ∀ (i : Instr) (s t : State),
    i.opcode ≠ .ptqAdd → i.opcode ≠ .ptqRemove → i.opcode ≠ .dataReq → i.opcode ≠ .dataCnf →
    s.env.avoids (fun op => decide (op = .ptqAdd ∨ op = .ptqRemove ∨ op = .dataReq ∨ op = .dataCnf)) →
    exec i s = .next t → t.ptq = s.ptq

/-- `txHandle` is written only by DATA.req, and `dataStatus` only by DATA.req and DATA.cnf (R23, R24). -/
def Obligations.OnlyDataCommandsChangeDataRegisters : Prop :=
  ∀ (i : Instr) (s t : State), i.opcode ≠ .dataReq →
    s.env.avoids (fun op => decide (op = .dataReq)) → exec i s = .next t →
      t.txHandle = s.txHandle ∧
      (i.opcode ≠ .dataCnf → s.env.avoids (fun op => decide (op = .dataCnf)) →
        t.dataStatus = s.dataStatus)

/-- No command, and no handler, changes the build-time parameters (R7), takes or adds a presented input,
takes back an event, or clears the mark of a broken precondition (R271; fields of the model's own, log 5,
log 9, log 10, log 6). -/
def Obligations.CommandsKeepSurroundings : Prop :=
  ∀ (i : Instr) (s t : State), exec i s = .next t →
    t.build = s.build ∧ t.env.inbox = s.env.inbox ∧ (∃ more, t.events = s.events ++ more) ∧
    (s.ghost.doubleIssue = true → t.ghost.doubleIssue = true)

/-- The in-flight rule of R271 (log 6, log 17). Every command, with handlers that issue nothing: a
service's bit is set exactly if a Request of it was forwarded, or it was set before and no Confirm of it
was processed; and the mark is set exactly if a request the command makes (the internal SETTRX requests of
DATA.req and DATA.cnf among them) finds one of its service in flight. With handlers: a DATA.req that
transmits leaves DATA in flight, and SETTRX not, its Confirm having been processed; and a request forwarded
from inside the handler of a Confirm stays in flight, and is marked if that Confirm answered a request. -/
def Obligations.GhostMarksDoubleIssue : Prop :=
  (∀ (i : Instr) (s : State), s.quiet →
    ∃ t more, exec i s = .next t ∧ t.events = s.events ++ more ∧
      t.ghost.confirming = s.ghost.confirming ∧
      (∀ svc, t.ghost.inFlight.bit svc =
        ((s.ghost.inFlight.bit svc &&
            !decide (i.opcode = Opcode.ofConfirm svc ∧ s.slot .lower svc .confirm ≠ 0#32)) ||
          more.any (Event.forwards svc))) ∧
      ((∀ inst svc role, inboundSlot i = some (inst, svc, role) → s.slot inst svc role ≠ 0#32) →
        t.ghost.doubleIssue =
          (s.ghost.doubleIssue || (requestsOf i).any fun svc => s.ghost.outstanding svc))) ∧
  (∀ (r : EncodeRequest) (s : State),
    s.slot .upper .data .request ≠ 0#32 → s.slot .lower .setTrx .request ≠ 0#32 →
    s.slot .lower .setTrx .confirm ≠ 0#32 → s.slot .lower .data .request ≠ 0#32 →
    s.trxState = .trxOff → r.payload.length ≤ 127 → s.env.replies = [confirmsTrx Status.txOn] →
    ∃ t, exec (.dataReq r) s = .next t ∧ t.ghost.inFlight.bit .data = true ∧
      t.ghost.inFlight.bit .setTrx = false ∧ t.ghost.confirming = s.ghost.confirming ∧
      t.ghost.doubleIssue =
        (s.ghost.doubleIssue || s.ghost.outstanding .data || s.ghost.outstanding .setTrx)) ∧
  (∀ (status : Status) (s : State),
    s.slot .lower .cca .confirm ≠ 0#32 → s.slot .upper .cca .confirm ≠ 0#32 →
    s.slot .upper .cca .request ≠ 0#32 → s.slot .lower .cca .request ≠ 0#32 → s.trxState = .rxOn →
    s.env.replies = [{ commands := [encode .ccaReq], returns := true }] →
    ∃ t, exec (.ccaCnf status) s = .next t ∧ t.ghost.inFlight.bit .cca = true ∧
      t.ghost.confirming = s.ghost.confirming ∧
      t.ghost.doubleIssue = (s.ghost.doubleIssue || s.ghost.outstanding .cca))

/-! ## State read port -/

/-- The read port shows every register under its number, zero-extended, and 0 under any other number and
for entries that are not valid (R45; the numbers are the spec's decision D36). -/
def Obligations.ReadPortShowsRegisters : Prop :=
  ∀ s : State, s.ptq.length ≤ 10 →
    s.readPort 0x00 = s.trxState.code.setWidth 32 ∧ s.readPort 0x01 = s.dsn.setWidth 32 ∧
    s.readPort 0x02 = s.dataStatus.setWidth 32 ∧ s.readPort 0x03 = s.txHandle.setWidth 32 ∧
    s.readPort 0x10 = s.pib.currentChannel.setWidth 32 ∧
    s.readPort 0x11 = s.pib.channelsSupported.setWidth 32 ∧
    s.readPort 0x12 = s.pib.transmitPower.setWidth 32 ∧ s.readPort 0x13 = s.pib.ccaMode.setWidth 32 ∧
    (s.readPort 0x20).toNat = s.ptq.length ∧
    (∀ i, (hi : i < s.ptq.length) →
      (s.readPort (0x30 + i)).toNat = (s.ptq[i]).handle.toNat +
        (match (s.ptq[i]).kind with | .data => 0 | .command => 256) + 512 * (s.ptq[i]).ackRequired.toNat ∧
      s.readPort (0x40 + i) = (s.ptq[i]).timestamp) ∧
    (∀ i, s.ptq.length ≤ i → i < 10 → s.readPort (0x30 + i) = 0#32 ∧ s.readPort (0x40 + i) = 0#32) ∧
    (∀ inst svc role,
      s.readPort (0x80 + 18 * inst.number + 3 * svc.number + role.number) = s.slot inst svc role) ∧
    (∀ n, 0x03 < n → n < 0x10 → s.readPort n = 0#32) ∧
    (∀ n, 0x13 < n → n < 0x20 → s.readPort n = 0#32) ∧
    (∀ n, 0x20 < n → n < 0x30 → s.readPort n = 0#32) ∧
    (∀ n, 0x39 < n → n < 0x40 → s.readPort n = 0#32) ∧
    (∀ n, 0x49 < n → n < 0x80 → s.readPort n = 0#32) ∧
    (∀ n, 0xA3 < n → s.readPort n = 0#32)

/-! ## DATA.cnf and a driver that confirms RX_ON inline -/

/-- DATA.cnf with a driver whose SETTRX handler issues commands (R181 "nested SETTRX.cnf may run here"):
those commands run from the state as the confirm found it, and what they leave is what the entry is then
resolved in, before the status is recorded and passed on. With the usual driver, which confirms `RX_ON`
there, the tracked state ends as `RX_ON`, and the upper layer sees the SETTRX confirm it did not ask for
(R279) before the DATA confirm. Which entry is resolved, and the record, are the spec's decisions D28 and
D29 (log 20); the reply list is the model's form of the driver (log 2). -/
def Obligations.DataConfirmReturnsToReceive : Prop :=
  ∀ (status : Status) (s : State),
    s.slot .lower .data .confirm ≠ 0#32 → s.slot .lower .setTrx .request ≠ 0#32 →
    (∀ reply rest, s.env.replies = reply :: rest → reply.returns = true →
      ∃ m : State, m.registers = s.registers ∧ m.env = { s.env with replies := rest } ∧
        m.build = s.build ∧ m.events = s.events ++ outEvents s (.setTrxRequest Status.rxOn) ∧
        ∀ t, runAll exec reply.commands m = .next t → t.quiet →
          ∃ u, exec (.dataCnf status) s = .next u ∧
            u.registers = { t.registers with dataStatus := status, ptq := u.ptq } ∧
            resolves t.txHandle t.ptq u.ptq ∧ u.env = t.env ∧ u.build = t.build ∧
            u.events = t.events ++ outEvents t (.dataConfirm status) ++ [Event.completed .none]) ∧
    (s.slot .lower .setTrx .confirm ≠ 0#32 → s.env.replies = [confirmsTrx Status.rxOn] →
      ∃ u, exec (.dataCnf status) s = .next u ∧
        u.registers = { s.registers with trxState := .rxOn, dataStatus := status, ptq := u.ptq } ∧
        resolves s.txHandle s.ptq u.ptq ∧
        u.env = { s.env with replies := [] } ∧ u.build = s.build ∧
        u.events = s.events ++ outEvents s (.setTrxRequest Status.rxOn) ++
          outEvents s (.setTrxConfirm Status.rxOn) ++ [Event.completed .none] ++
          outEvents s (.dataConfirm status) ++ [Event.completed .none])

/-! ## No forwarded request escapes the mark -/

/-- Whatever the handlers do: a Request that is handed to the driver while one of its service is in flight
sets the mark of a broken precondition (R271 "one request in flight per slot"; log 6, log 17), in the very
Call, whichever command makes it and whatever ran since that command began. In particular a DATA.req that
forwards after the handler of its internal SETTRX request has let another DATA.req forward (that handler
reports TRX_OFF and issues the other DATA.req, whose own SETTRX request is confirmed as TX_ON): both
frames go out, and the mark is set. -/
def Obligations.ForwardedWhileInFlightIsMarked : Prop :=
  (∀ (args : OutArgs) (s : State), args.role = .request →
    s.slot args.inst args.svc args.role ≠ 0#32 → s.ghost.outstanding args.svc = true →
      ∀ t, callIfPresent invokeHandler args s = .next t → t.ghost.doubleIssue = true) ∧
  (∀ (r inner : EncodeRequest) (s : State),
    s.slot .upper .data .request ≠ 0#32 → s.slot .lower .setTrx .request ≠ 0#32 →
    s.slot .lower .setTrx .confirm ≠ 0#32 → s.slot .lower .data .request ≠ 0#32 →
    s.slot .upper .setTrx .confirm = 0#32 → s.trxState = .trxOff →
    r.payload.length ≤ 127 → inner.payload.length ≤ 127 →
    s.env.replies =
      [{ commands := [encode (.setTrxCnf Status.trxOff), encode (.dataReq inner)], returns := true },
        confirmsTrx Status.txOn] →
    ∃ t, exec (.dataReq r) s = .next t ∧ t.trxState = .txOn ∧ t.dsn = s.dsn + 2#8 ∧
      t.txHandle = r.handle ∧ t.ghost.inFlight.bit .data = true ∧ t.ghost.doubleIssue = true)
end

