-- ==== Sys2Proof/Laws/Octets.lean ====
section
/-!
SUPPORT. The octet order: writing and reading the octets of a number are inverse (20_memory.md R52).
-/

namespace Sys2Proof

@[simp] theorem leOctets_length (n v : Nat) : (leOctets n v).length = n := by
  induction n generalizing v with
  | zero => rfl
  | succ n ih => simp [leOctets, ih]

/-- Reading back the octets of a number gives the number, cut to their width. -/
theorem leValue_leOctets (n v : Nat) : leValue (leOctets n v) = v % 256 ^ n := by
  induction n generalizing v with
  | zero => simp [leOctets, leValue, Nat.mod_one]
  | succ n ih =>
    have h : v % 256 ^ (n + 1) = v % 256 + 256 * (v / 256 % 256 ^ n) := by
      rw [Nat.pow_succ', Nat.mod_mul]
    simp [leOctets, leValue, ih, h]

theorem leValue_lt (bs : Octets) : leValue bs < 256 ^ bs.length := by
  induction bs with
  | nil => simp [leValue]
  | cons b bs ih =>
    have hb := b.isLt
    simp only [leValue, List.length_cons, Nat.pow_succ']
    omega

/-- Writing the value of an octet string gives the string back. -/
theorem leOctets_leValue (bs : Octets) : leOctets bs.length (leValue bs) = bs := by
  induction bs with
  | nil => rfl
  | cons b bs ih =>
    have hb := b.isLt
    have h1 : (b.toNat + 256 * leValue bs) / 256 = leValue bs := by omega
    have h2 : BitVec.ofNat 8 (b.toNat + 256 * leValue bs) = b := by
      apply BitVec.eq_of_toNat_eq
      simp only [BitVec.toNat_ofNat]
      omega
    simp [leOctets, leValue, h1, h2, ih]

@[simp] theorem octetsOf_length {w : Nat} (n : Nat) (v : BitVec w) : (octetsOf n v).length = n := by
  simp [octetsOf]

/-- A bit vector of at most `8 n` bits survives its `n` octets. -/
theorem ofNat_leValue_octetsOf {w : Nat} (n : Nat) (v : BitVec w) (h : w ≤ 8 * n) :
    BitVec.ofNat w (leValue (octetsOf n v)) = v := by
  apply BitVec.eq_of_toNat_eq
  have hv := v.isLt
  have hp : 2 ^ w ≤ 256 ^ n := by
    rw [show (256 : Nat) = 2 ^ 8 from rfl, ← Nat.pow_mul]
    exact Nat.pow_le_pow_right (by decide) h
  rw [octetsOf, leValue_leOctets, BitVec.toNat_ofNat, Nat.mod_eq_of_lt (Nat.lt_of_lt_of_le hv hp),
    Nat.mod_eq_of_lt hv]

end Sys2Proof
end

