-- ==== Sys2Proof/Laws/State.lean ====
section
/-!
SUPPORT. One lemma per field per register write, and per field for the operations that write a fixed
set of fields, so that no proof unfolds a record update.
-/

namespace Sys2Proof
namespace Machine

variable (s : State)

/-! ## Register writes -/

@[simp] theorem State.setTrxState_trxState (v : TrxState) : (s.setTrxState v).trxState = v := rfl
@[simp] theorem State.setTrxState_dsn (v : TrxState) : (s.setTrxState v).dsn = s.dsn := rfl
@[simp] theorem State.setTrxState_dataStatus (v : TrxState) : (s.setTrxState v).dataStatus = s.dataStatus := rfl
@[simp] theorem State.setTrxState_txHandle (v : TrxState) : (s.setTrxState v).txHandle = s.txHandle := rfl
@[simp] theorem State.setTrxState_upper (v : TrxState) : (s.setTrxState v).upper = s.upper := rfl
@[simp] theorem State.setTrxState_lower (v : TrxState) : (s.setTrxState v).lower = s.lower := rfl
@[simp] theorem State.setTrxState_pib (v : TrxState) : (s.setTrxState v).pib = s.pib := rfl
@[simp] theorem State.setTrxState_ptq (v : TrxState) : (s.setTrxState v).ptq = s.ptq := rfl
@[simp] theorem State.setTrxState_build (v : TrxState) : (s.setTrxState v).build = s.build := rfl
@[simp] theorem State.setTrxState_env (v : TrxState) : (s.setTrxState v).env = s.env := rfl
@[simp] theorem State.setTrxState_events (v : TrxState) : (s.setTrxState v).events = s.events := rfl
@[simp] theorem State.setTrxState_ghost (v : TrxState) : (s.setTrxState v).ghost = s.ghost := rfl

@[simp] theorem State.setDsn_trxState (v : BitVec 8) : (s.setDsn v).trxState = s.trxState := rfl
@[simp] theorem State.setDsn_dsn (v : BitVec 8) : (s.setDsn v).dsn = v := rfl
@[simp] theorem State.setDsn_dataStatus (v : BitVec 8) : (s.setDsn v).dataStatus = s.dataStatus := rfl
@[simp] theorem State.setDsn_txHandle (v : BitVec 8) : (s.setDsn v).txHandle = s.txHandle := rfl
@[simp] theorem State.setDsn_upper (v : BitVec 8) : (s.setDsn v).upper = s.upper := rfl
@[simp] theorem State.setDsn_lower (v : BitVec 8) : (s.setDsn v).lower = s.lower := rfl
@[simp] theorem State.setDsn_pib (v : BitVec 8) : (s.setDsn v).pib = s.pib := rfl
@[simp] theorem State.setDsn_ptq (v : BitVec 8) : (s.setDsn v).ptq = s.ptq := rfl
@[simp] theorem State.setDsn_build (v : BitVec 8) : (s.setDsn v).build = s.build := rfl
@[simp] theorem State.setDsn_env (v : BitVec 8) : (s.setDsn v).env = s.env := rfl
@[simp] theorem State.setDsn_events (v : BitVec 8) : (s.setDsn v).events = s.events := rfl
@[simp] theorem State.setDsn_ghost (v : BitVec 8) : (s.setDsn v).ghost = s.ghost := rfl

@[simp] theorem State.setDataStatus_trxState (v : Status) : (s.setDataStatus v).trxState = s.trxState := rfl
@[simp] theorem State.setDataStatus_dsn (v : Status) : (s.setDataStatus v).dsn = s.dsn := rfl
@[simp] theorem State.setDataStatus_dataStatus (v : Status) : (s.setDataStatus v).dataStatus = v := rfl
@[simp] theorem State.setDataStatus_txHandle (v : Status) : (s.setDataStatus v).txHandle = s.txHandle := rfl
@[simp] theorem State.setDataStatus_upper (v : Status) : (s.setDataStatus v).upper = s.upper := rfl
@[simp] theorem State.setDataStatus_lower (v : Status) : (s.setDataStatus v).lower = s.lower := rfl
@[simp] theorem State.setDataStatus_pib (v : Status) : (s.setDataStatus v).pib = s.pib := rfl
@[simp] theorem State.setDataStatus_ptq (v : Status) : (s.setDataStatus v).ptq = s.ptq := rfl
@[simp] theorem State.setDataStatus_build (v : Status) : (s.setDataStatus v).build = s.build := rfl
@[simp] theorem State.setDataStatus_env (v : Status) : (s.setDataStatus v).env = s.env := rfl
@[simp] theorem State.setDataStatus_events (v : Status) : (s.setDataStatus v).events = s.events := rfl
@[simp] theorem State.setDataStatus_ghost (v : Status) : (s.setDataStatus v).ghost = s.ghost := rfl

@[simp] theorem State.setTxHandle_trxState (v : BitVec 8) : (s.setTxHandle v).trxState = s.trxState := rfl
@[simp] theorem State.setTxHandle_dsn (v : BitVec 8) : (s.setTxHandle v).dsn = s.dsn := rfl
@[simp] theorem State.setTxHandle_dataStatus (v : BitVec 8) : (s.setTxHandle v).dataStatus = s.dataStatus := rfl
@[simp] theorem State.setTxHandle_txHandle (v : BitVec 8) : (s.setTxHandle v).txHandle = v := rfl
@[simp] theorem State.setTxHandle_upper (v : BitVec 8) : (s.setTxHandle v).upper = s.upper := rfl
@[simp] theorem State.setTxHandle_lower (v : BitVec 8) : (s.setTxHandle v).lower = s.lower := rfl
@[simp] theorem State.setTxHandle_pib (v : BitVec 8) : (s.setTxHandle v).pib = s.pib := rfl
@[simp] theorem State.setTxHandle_ptq (v : BitVec 8) : (s.setTxHandle v).ptq = s.ptq := rfl
@[simp] theorem State.setTxHandle_build (v : BitVec 8) : (s.setTxHandle v).build = s.build := rfl
@[simp] theorem State.setTxHandle_env (v : BitVec 8) : (s.setTxHandle v).env = s.env := rfl
@[simp] theorem State.setTxHandle_events (v : BitVec 8) : (s.setTxHandle v).events = s.events := rfl
@[simp] theorem State.setTxHandle_ghost (v : BitVec 8) : (s.setTxHandle v).ghost = s.ghost := rfl

@[simp] theorem State.setUpper_trxState (v : Registry) : (s.setUpper v).trxState = s.trxState := rfl
@[simp] theorem State.setUpper_dsn (v : Registry) : (s.setUpper v).dsn = s.dsn := rfl
@[simp] theorem State.setUpper_dataStatus (v : Registry) : (s.setUpper v).dataStatus = s.dataStatus := rfl
@[simp] theorem State.setUpper_txHandle (v : Registry) : (s.setUpper v).txHandle = s.txHandle := rfl
@[simp] theorem State.setUpper_upper (v : Registry) : (s.setUpper v).upper = v := rfl
@[simp] theorem State.setUpper_lower (v : Registry) : (s.setUpper v).lower = s.lower := rfl
@[simp] theorem State.setUpper_pib (v : Registry) : (s.setUpper v).pib = s.pib := rfl
@[simp] theorem State.setUpper_ptq (v : Registry) : (s.setUpper v).ptq = s.ptq := rfl
@[simp] theorem State.setUpper_build (v : Registry) : (s.setUpper v).build = s.build := rfl
@[simp] theorem State.setUpper_env (v : Registry) : (s.setUpper v).env = s.env := rfl
@[simp] theorem State.setUpper_events (v : Registry) : (s.setUpper v).events = s.events := rfl
@[simp] theorem State.setUpper_ghost (v : Registry) : (s.setUpper v).ghost = s.ghost := rfl

@[simp] theorem State.setLower_trxState (v : Registry) : (s.setLower v).trxState = s.trxState := rfl
@[simp] theorem State.setLower_dsn (v : Registry) : (s.setLower v).dsn = s.dsn := rfl
@[simp] theorem State.setLower_dataStatus (v : Registry) : (s.setLower v).dataStatus = s.dataStatus := rfl
@[simp] theorem State.setLower_txHandle (v : Registry) : (s.setLower v).txHandle = s.txHandle := rfl
@[simp] theorem State.setLower_upper (v : Registry) : (s.setLower v).upper = s.upper := rfl
@[simp] theorem State.setLower_lower (v : Registry) : (s.setLower v).lower = v := rfl
@[simp] theorem State.setLower_pib (v : Registry) : (s.setLower v).pib = s.pib := rfl
@[simp] theorem State.setLower_ptq (v : Registry) : (s.setLower v).ptq = s.ptq := rfl
@[simp] theorem State.setLower_build (v : Registry) : (s.setLower v).build = s.build := rfl
@[simp] theorem State.setLower_env (v : Registry) : (s.setLower v).env = s.env := rfl
@[simp] theorem State.setLower_events (v : Registry) : (s.setLower v).events = s.events := rfl
@[simp] theorem State.setLower_ghost (v : Registry) : (s.setLower v).ghost = s.ghost := rfl

@[simp] theorem State.setPib_trxState (v : Pib) : (s.setPib v).trxState = s.trxState := rfl
@[simp] theorem State.setPib_dsn (v : Pib) : (s.setPib v).dsn = s.dsn := rfl
@[simp] theorem State.setPib_dataStatus (v : Pib) : (s.setPib v).dataStatus = s.dataStatus := rfl
@[simp] theorem State.setPib_txHandle (v : Pib) : (s.setPib v).txHandle = s.txHandle := rfl
@[simp] theorem State.setPib_upper (v : Pib) : (s.setPib v).upper = s.upper := rfl
@[simp] theorem State.setPib_lower (v : Pib) : (s.setPib v).lower = s.lower := rfl
@[simp] theorem State.setPib_pib (v : Pib) : (s.setPib v).pib = v := rfl
@[simp] theorem State.setPib_ptq (v : Pib) : (s.setPib v).ptq = s.ptq := rfl
@[simp] theorem State.setPib_build (v : Pib) : (s.setPib v).build = s.build := rfl
@[simp] theorem State.setPib_env (v : Pib) : (s.setPib v).env = s.env := rfl
@[simp] theorem State.setPib_events (v : Pib) : (s.setPib v).events = s.events := rfl
@[simp] theorem State.setPib_ghost (v : Pib) : (s.setPib v).ghost = s.ghost := rfl

@[simp] theorem State.setPtq_trxState (v : List PtqEntry) : (s.setPtq v).trxState = s.trxState := rfl
@[simp] theorem State.setPtq_dsn (v : List PtqEntry) : (s.setPtq v).dsn = s.dsn := rfl
@[simp] theorem State.setPtq_dataStatus (v : List PtqEntry) : (s.setPtq v).dataStatus = s.dataStatus := rfl
@[simp] theorem State.setPtq_txHandle (v : List PtqEntry) : (s.setPtq v).txHandle = s.txHandle := rfl
@[simp] theorem State.setPtq_upper (v : List PtqEntry) : (s.setPtq v).upper = s.upper := rfl
@[simp] theorem State.setPtq_lower (v : List PtqEntry) : (s.setPtq v).lower = s.lower := rfl
@[simp] theorem State.setPtq_pib (v : List PtqEntry) : (s.setPtq v).pib = s.pib := rfl
@[simp] theorem State.setPtq_ptq (v : List PtqEntry) : (s.setPtq v).ptq = v := rfl
@[simp] theorem State.setPtq_build (v : List PtqEntry) : (s.setPtq v).build = s.build := rfl
@[simp] theorem State.setPtq_env (v : List PtqEntry) : (s.setPtq v).env = s.env := rfl
@[simp] theorem State.setPtq_events (v : List PtqEntry) : (s.setPtq v).events = s.events := rfl
@[simp] theorem State.setPtq_ghost (v : List PtqEntry) : (s.setPtq v).ghost = s.ghost := rfl

@[simp] theorem State.setEnv_trxState (v : Env) : (s.setEnv v).trxState = s.trxState := rfl
@[simp] theorem State.setEnv_dsn (v : Env) : (s.setEnv v).dsn = s.dsn := rfl
@[simp] theorem State.setEnv_dataStatus (v : Env) : (s.setEnv v).dataStatus = s.dataStatus := rfl
@[simp] theorem State.setEnv_txHandle (v : Env) : (s.setEnv v).txHandle = s.txHandle := rfl
@[simp] theorem State.setEnv_upper (v : Env) : (s.setEnv v).upper = s.upper := rfl
@[simp] theorem State.setEnv_lower (v : Env) : (s.setEnv v).lower = s.lower := rfl
@[simp] theorem State.setEnv_pib (v : Env) : (s.setEnv v).pib = s.pib := rfl
@[simp] theorem State.setEnv_ptq (v : Env) : (s.setEnv v).ptq = s.ptq := rfl
@[simp] theorem State.setEnv_build (v : Env) : (s.setEnv v).build = s.build := rfl
@[simp] theorem State.setEnv_env (v : Env) : (s.setEnv v).env = v := rfl
@[simp] theorem State.setEnv_events (v : Env) : (s.setEnv v).events = s.events := rfl
@[simp] theorem State.setEnv_ghost (v : Env) : (s.setEnv v).ghost = s.ghost := rfl

@[simp] theorem State.setGhost_trxState (v : Ghost) : (s.setGhost v).trxState = s.trxState := rfl
@[simp] theorem State.setGhost_dsn (v : Ghost) : (s.setGhost v).dsn = s.dsn := rfl
@[simp] theorem State.setGhost_dataStatus (v : Ghost) : (s.setGhost v).dataStatus = s.dataStatus := rfl
@[simp] theorem State.setGhost_txHandle (v : Ghost) : (s.setGhost v).txHandle = s.txHandle := rfl
@[simp] theorem State.setGhost_upper (v : Ghost) : (s.setGhost v).upper = s.upper := rfl
@[simp] theorem State.setGhost_lower (v : Ghost) : (s.setGhost v).lower = s.lower := rfl
@[simp] theorem State.setGhost_pib (v : Ghost) : (s.setGhost v).pib = s.pib := rfl
@[simp] theorem State.setGhost_ptq (v : Ghost) : (s.setGhost v).ptq = s.ptq := rfl
@[simp] theorem State.setGhost_build (v : Ghost) : (s.setGhost v).build = s.build := rfl
@[simp] theorem State.setGhost_env (v : Ghost) : (s.setGhost v).env = s.env := rfl
@[simp] theorem State.setGhost_events (v : Ghost) : (s.setGhost v).events = s.events := rfl
@[simp] theorem State.setGhost_ghost (v : Ghost) : (s.setGhost v).ghost = v := rfl

@[simp] theorem State.log_trxState (e : Event) : (s.log e).trxState = s.trxState := rfl
@[simp] theorem State.log_dsn (e : Event) : (s.log e).dsn = s.dsn := rfl
@[simp] theorem State.log_dataStatus (e : Event) : (s.log e).dataStatus = s.dataStatus := rfl
@[simp] theorem State.log_txHandle (e : Event) : (s.log e).txHandle = s.txHandle := rfl
@[simp] theorem State.log_upper (e : Event) : (s.log e).upper = s.upper := rfl
@[simp] theorem State.log_lower (e : Event) : (s.log e).lower = s.lower := rfl
@[simp] theorem State.log_pib (e : Event) : (s.log e).pib = s.pib := rfl
@[simp] theorem State.log_ptq (e : Event) : (s.log e).ptq = s.ptq := rfl
@[simp] theorem State.log_build (e : Event) : (s.log e).build = s.build := rfl
@[simp] theorem State.log_env (e : Event) : (s.log e).env = s.env := rfl
@[simp] theorem State.log_events (e : Event) : (s.log e).events = s.events ++ [e] := rfl
@[simp] theorem State.log_ghost (e : Event) : (s.log e).ghost = s.ghost := rfl

/-! ## Completion -/

@[simp] theorem State.complete_trxState (c : Completion) : (s.complete c).trxState = s.trxState := rfl
@[simp] theorem State.complete_dsn (c : Completion) : (s.complete c).dsn = s.dsn := rfl
@[simp] theorem State.complete_dataStatus (c : Completion) : (s.complete c).dataStatus = s.dataStatus := rfl
@[simp] theorem State.complete_txHandle (c : Completion) : (s.complete c).txHandle = s.txHandle := rfl
@[simp] theorem State.complete_upper (c : Completion) : (s.complete c).upper = s.upper := rfl
@[simp] theorem State.complete_lower (c : Completion) : (s.complete c).lower = s.lower := rfl
@[simp] theorem State.complete_pib (c : Completion) : (s.complete c).pib = s.pib := rfl
@[simp] theorem State.complete_ptq (c : Completion) : (s.complete c).ptq = s.ptq := rfl
@[simp] theorem State.complete_build (c : Completion) : (s.complete c).build = s.build := rfl
@[simp] theorem State.complete_env (c : Completion) : (s.complete c).env = s.env := rfl
@[simp] theorem State.complete_events (c : Completion) : (s.complete c).events = s.events ++ [.completed c] := rfl
@[simp] theorem State.complete_ghost (c : Completion) : (s.complete c).ghost = s.ghost := rfl

/-! ## Ghost bits -/

@[simp] theorem State.noteRequest_trxState (svc : Svc) : (s.noteRequest svc).trxState = s.trxState := rfl
@[simp] theorem State.noteRequest_dsn (svc : Svc) : (s.noteRequest svc).dsn = s.dsn := rfl
@[simp] theorem State.noteRequest_dataStatus (svc : Svc) : (s.noteRequest svc).dataStatus = s.dataStatus := rfl
@[simp] theorem State.noteRequest_txHandle (svc : Svc) : (s.noteRequest svc).txHandle = s.txHandle := rfl
@[simp] theorem State.noteRequest_upper (svc : Svc) : (s.noteRequest svc).upper = s.upper := rfl
@[simp] theorem State.noteRequest_lower (svc : Svc) : (s.noteRequest svc).lower = s.lower := rfl
@[simp] theorem State.noteRequest_pib (svc : Svc) : (s.noteRequest svc).pib = s.pib := rfl
@[simp] theorem State.noteRequest_ptq (svc : Svc) : (s.noteRequest svc).ptq = s.ptq := rfl
@[simp] theorem State.noteRequest_build (svc : Svc) : (s.noteRequest svc).build = s.build := rfl
@[simp] theorem State.noteRequest_env (svc : Svc) : (s.noteRequest svc).env = s.env := rfl
@[simp] theorem State.noteRequest_events (svc : Svc) : (s.noteRequest svc).events = s.events := rfl
@[simp] theorem State.noteRequest_ghost (svc : Svc) : (s.noteRequest svc).ghost =  { s.ghost with doubleIssue := s.ghost.doubleIssue || s.ghost.outstanding svc } := rfl

@[simp] theorem State.noteForwarded_trxState (svc : Svc) : (s.noteForwarded svc).trxState = s.trxState := rfl
@[simp] theorem State.noteForwarded_dsn (svc : Svc) : (s.noteForwarded svc).dsn = s.dsn := rfl
@[simp] theorem State.noteForwarded_dataStatus (svc : Svc) : (s.noteForwarded svc).dataStatus = s.dataStatus := rfl
@[simp] theorem State.noteForwarded_txHandle (svc : Svc) : (s.noteForwarded svc).txHandle = s.txHandle := rfl
@[simp] theorem State.noteForwarded_upper (svc : Svc) : (s.noteForwarded svc).upper = s.upper := rfl
@[simp] theorem State.noteForwarded_lower (svc : Svc) : (s.noteForwarded svc).lower = s.lower := rfl
@[simp] theorem State.noteForwarded_pib (svc : Svc) : (s.noteForwarded svc).pib = s.pib := rfl
@[simp] theorem State.noteForwarded_ptq (svc : Svc) : (s.noteForwarded svc).ptq = s.ptq := rfl
@[simp] theorem State.noteForwarded_build (svc : Svc) : (s.noteForwarded svc).build = s.build := rfl
@[simp] theorem State.noteForwarded_env (svc : Svc) : (s.noteForwarded svc).env = s.env := rfl
@[simp] theorem State.noteForwarded_events (svc : Svc) : (s.noteForwarded svc).events = s.events := rfl
@[simp] theorem State.noteForwarded_ghost (svc : Svc) : (s.noteForwarded svc).ghost =
    { s.ghost with inFlight := s.ghost.inFlight.setBit svc true,
                   doubleIssue := s.ghost.doubleIssue || s.ghost.outstanding svc } := rfl

@[simp] theorem State.beginConfirm_trxState (svc : Svc) : (s.beginConfirm svc).trxState = s.trxState := rfl
@[simp] theorem State.beginConfirm_dsn (svc : Svc) : (s.beginConfirm svc).dsn = s.dsn := rfl
@[simp] theorem State.beginConfirm_dataStatus (svc : Svc) : (s.beginConfirm svc).dataStatus = s.dataStatus := rfl
@[simp] theorem State.beginConfirm_txHandle (svc : Svc) : (s.beginConfirm svc).txHandle = s.txHandle := rfl
@[simp] theorem State.beginConfirm_upper (svc : Svc) : (s.beginConfirm svc).upper = s.upper := rfl
@[simp] theorem State.beginConfirm_lower (svc : Svc) : (s.beginConfirm svc).lower = s.lower := rfl
@[simp] theorem State.beginConfirm_pib (svc : Svc) : (s.beginConfirm svc).pib = s.pib := rfl
@[simp] theorem State.beginConfirm_ptq (svc : Svc) : (s.beginConfirm svc).ptq = s.ptq := rfl
@[simp] theorem State.beginConfirm_build (svc : Svc) : (s.beginConfirm svc).build = s.build := rfl
@[simp] theorem State.beginConfirm_env (svc : Svc) : (s.beginConfirm svc).env = s.env := rfl
@[simp] theorem State.beginConfirm_events (svc : Svc) : (s.beginConfirm svc).events = s.events := rfl
@[simp] theorem State.beginConfirm_ghost (svc : Svc) : (s.beginConfirm svc).ghost =
    { s.ghost with inFlight := s.ghost.inFlight.setBit svc false,
                   confirming := s.ghost.confirming.setBit svc (s.ghost.outstanding svc) } := rfl

@[simp] theorem State.endConfirm_trxState (svc : Svc) (b : Bool) : (s.endConfirm svc b).trxState = s.trxState := rfl
@[simp] theorem State.endConfirm_dsn (svc : Svc) (b : Bool) : (s.endConfirm svc b).dsn = s.dsn := rfl
@[simp] theorem State.endConfirm_dataStatus (svc : Svc) (b : Bool) : (s.endConfirm svc b).dataStatus = s.dataStatus := rfl
@[simp] theorem State.endConfirm_txHandle (svc : Svc) (b : Bool) : (s.endConfirm svc b).txHandle = s.txHandle := rfl
@[simp] theorem State.endConfirm_upper (svc : Svc) (b : Bool) : (s.endConfirm svc b).upper = s.upper := rfl
@[simp] theorem State.endConfirm_lower (svc : Svc) (b : Bool) : (s.endConfirm svc b).lower = s.lower := rfl
@[simp] theorem State.endConfirm_pib (svc : Svc) (b : Bool) : (s.endConfirm svc b).pib = s.pib := rfl
@[simp] theorem State.endConfirm_ptq (svc : Svc) (b : Bool) : (s.endConfirm svc b).ptq = s.ptq := rfl
@[simp] theorem State.endConfirm_build (svc : Svc) (b : Bool) : (s.endConfirm svc b).build = s.build := rfl
@[simp] theorem State.endConfirm_env (svc : Svc) (b : Bool) : (s.endConfirm svc b).env = s.env := rfl
@[simp] theorem State.endConfirm_events (svc : Svc) (b : Bool) : (s.endConfirm svc b).events = s.events := rfl
@[simp] theorem State.endConfirm_ghost (svc : Svc) (b : Bool) : (s.endConfirm svc b).ghost =
    { s.ghost with confirming := s.ghost.confirming.setBit svc b } := rfl

/-! ## Inputs taken -/

@[simp] theorem State.dropReply_trxState : (s.dropReply).trxState = s.trxState := rfl
@[simp] theorem State.dropReply_dsn : (s.dropReply).dsn = s.dsn := rfl
@[simp] theorem State.dropReply_dataStatus : (s.dropReply).dataStatus = s.dataStatus := rfl
@[simp] theorem State.dropReply_txHandle : (s.dropReply).txHandle = s.txHandle := rfl
@[simp] theorem State.dropReply_upper : (s.dropReply).upper = s.upper := rfl
@[simp] theorem State.dropReply_lower : (s.dropReply).lower = s.lower := rfl
@[simp] theorem State.dropReply_pib : (s.dropReply).pib = s.pib := rfl
@[simp] theorem State.dropReply_ptq : (s.dropReply).ptq = s.ptq := rfl
@[simp] theorem State.dropReply_build : (s.dropReply).build = s.build := rfl
@[simp] theorem State.dropReply_env : (s.dropReply).env = { s.env with replies := s.env.replies.tail } := rfl
@[simp] theorem State.dropReply_events : (s.dropReply).events = s.events := rfl
@[simp] theorem State.dropReply_ghost : (s.dropReply).ghost = s.ghost := rfl

@[simp] theorem State.dropInput_trxState : (s.dropInput).trxState = s.trxState := rfl
@[simp] theorem State.dropInput_dsn : (s.dropInput).dsn = s.dsn := rfl
@[simp] theorem State.dropInput_dataStatus : (s.dropInput).dataStatus = s.dataStatus := rfl
@[simp] theorem State.dropInput_txHandle : (s.dropInput).txHandle = s.txHandle := rfl
@[simp] theorem State.dropInput_upper : (s.dropInput).upper = s.upper := rfl
@[simp] theorem State.dropInput_lower : (s.dropInput).lower = s.lower := rfl
@[simp] theorem State.dropInput_pib : (s.dropInput).pib = s.pib := rfl
@[simp] theorem State.dropInput_ptq : (s.dropInput).ptq = s.ptq := rfl
@[simp] theorem State.dropInput_build : (s.dropInput).build = s.build := rfl
@[simp] theorem State.dropInput_env : (s.dropInput).env = { s.env with inbox := s.env.inbox.tail } := rfl
@[simp] theorem State.dropInput_events : (s.dropInput).events = s.events := rfl
@[simp] theorem State.dropInput_ghost : (s.dropInput).ghost = s.ghost := rfl

/-! ## OutCall events -/

@[simp] theorem State.emit_trxState (c : OutCall) : (s.emit c).trxState = s.trxState := by
  unfold State.emit; cases c.args.role <;> rfl
@[simp] theorem State.emit_dsn (c : OutCall) : (s.emit c).dsn = s.dsn := by
  unfold State.emit; cases c.args.role <;> rfl
@[simp] theorem State.emit_dataStatus (c : OutCall) : (s.emit c).dataStatus = s.dataStatus := by
  unfold State.emit; cases c.args.role <;> rfl
@[simp] theorem State.emit_txHandle (c : OutCall) : (s.emit c).txHandle = s.txHandle := by
  unfold State.emit; cases c.args.role <;> rfl
@[simp] theorem State.emit_upper (c : OutCall) : (s.emit c).upper = s.upper := by
  unfold State.emit; cases c.args.role <;> rfl
@[simp] theorem State.emit_lower (c : OutCall) : (s.emit c).lower = s.lower := by
  unfold State.emit; cases c.args.role <;> rfl
@[simp] theorem State.emit_pib (c : OutCall) : (s.emit c).pib = s.pib := by
  unfold State.emit; cases c.args.role <;> rfl
@[simp] theorem State.emit_ptq (c : OutCall) : (s.emit c).ptq = s.ptq := by
  unfold State.emit; cases c.args.role <;> rfl
@[simp] theorem State.emit_build (c : OutCall) : (s.emit c).build = s.build := by
  unfold State.emit; cases c.args.role <;> rfl
@[simp] theorem State.emit_env (c : OutCall) : (s.emit c).env = s.env := by
  unfold State.emit; cases c.args.role <;> rfl
@[simp] theorem State.emit_events (c : OutCall) : (s.emit c).events = s.events ++ [.out c] := by
  unfold State.emit; cases c.args.role <;> rfl
/-- An emitted event changes the ghost state only if it is a forwarded request (R271). -/
theorem State.emit_ghost (c : OutCall) :
    (s.emit c).ghost =
      if c.args.role = .request then
        { s.ghost with inFlight := s.ghost.inFlight.setBit c.args.svc true,
                       doubleIssue := s.ghost.doubleIssue || s.ghost.outstanding c.args.svc }
      else s.ghost := by
  unfold State.emit
  cases c.args.role <;> rfl


/-! ## Tracking a reported state -/

@[simp] theorem State.trackStatus_dsn (v : Status) : (s.trackStatus v).dsn = s.dsn := by
  unfold State.trackStatus; cases TrxState.ofStatus v <;> rfl
@[simp] theorem State.trackStatus_dataStatus (v : Status) : (s.trackStatus v).dataStatus = s.dataStatus := by
  unfold State.trackStatus; cases TrxState.ofStatus v <;> rfl
@[simp] theorem State.trackStatus_txHandle (v : Status) : (s.trackStatus v).txHandle = s.txHandle := by
  unfold State.trackStatus; cases TrxState.ofStatus v <;> rfl
@[simp] theorem State.trackStatus_upper (v : Status) : (s.trackStatus v).upper = s.upper := by
  unfold State.trackStatus; cases TrxState.ofStatus v <;> rfl
@[simp] theorem State.trackStatus_lower (v : Status) : (s.trackStatus v).lower = s.lower := by
  unfold State.trackStatus; cases TrxState.ofStatus v <;> rfl
@[simp] theorem State.trackStatus_pib (v : Status) : (s.trackStatus v).pib = s.pib := by
  unfold State.trackStatus; cases TrxState.ofStatus v <;> rfl
@[simp] theorem State.trackStatus_ptq (v : Status) : (s.trackStatus v).ptq = s.ptq := by
  unfold State.trackStatus; cases TrxState.ofStatus v <;> rfl
@[simp] theorem State.trackStatus_build (v : Status) : (s.trackStatus v).build = s.build := by
  unfold State.trackStatus; cases TrxState.ofStatus v <;> rfl
@[simp] theorem State.trackStatus_env (v : Status) : (s.trackStatus v).env = s.env := by
  unfold State.trackStatus; cases TrxState.ofStatus v <;> rfl
@[simp] theorem State.trackStatus_events (v : Status) : (s.trackStatus v).events = s.events := by
  unfold State.trackStatus; cases TrxState.ofStatus v <;> rfl
@[simp] theorem State.trackStatus_ghost (v : Status) : (s.trackStatus v).ghost = s.ghost := by
  unfold State.trackStatus; cases TrxState.ofStatus v <;> rfl

/-! ## Binding a slot -/

@[simp] theorem State.bindSlot_trxState (i : Inst) (v : Svc) (r : Role) (h : Handler) :
    (s.bindSlot i v r h).trxState = s.trxState := by
  cases i <;> rfl
@[simp] theorem State.bindSlot_dsn (i : Inst) (v : Svc) (r : Role) (h : Handler) :
    (s.bindSlot i v r h).dsn = s.dsn := by
  cases i <;> rfl
@[simp] theorem State.bindSlot_dataStatus (i : Inst) (v : Svc) (r : Role) (h : Handler) :
    (s.bindSlot i v r h).dataStatus = s.dataStatus := by
  cases i <;> rfl
@[simp] theorem State.bindSlot_txHandle (i : Inst) (v : Svc) (r : Role) (h : Handler) :
    (s.bindSlot i v r h).txHandle = s.txHandle := by
  cases i <;> rfl
@[simp] theorem State.bindSlot_pib (i : Inst) (v : Svc) (r : Role) (h : Handler) :
    (s.bindSlot i v r h).pib = s.pib := by
  cases i <;> rfl
@[simp] theorem State.bindSlot_ptq (i : Inst) (v : Svc) (r : Role) (h : Handler) :
    (s.bindSlot i v r h).ptq = s.ptq := by
  cases i <;> rfl
@[simp] theorem State.bindSlot_build (i : Inst) (v : Svc) (r : Role) (h : Handler) :
    (s.bindSlot i v r h).build = s.build := by
  cases i <;> rfl
@[simp] theorem State.bindSlot_env (i : Inst) (v : Svc) (r : Role) (h : Handler) :
    (s.bindSlot i v r h).env = s.env := by
  cases i <;> rfl
@[simp] theorem State.bindSlot_events (i : Inst) (v : Svc) (r : Role) (h : Handler) :
    (s.bindSlot i v r h).events = s.events := by
  cases i <;> rfl
@[simp] theorem State.bindSlot_ghost (i : Inst) (v : Svc) (r : Role) (h : Handler) :
    (s.bindSlot i v r h).ghost = s.ghost := by
  cases i <;> rfl

/-! ## Sampling the time source -/

@[simp] theorem State.sampleTime_trxState : s.sampleTime.2.trxState = s.trxState := by
  unfold State.sampleTime; cases s.env.timeInput <;> rfl
@[simp] theorem State.sampleTime_dsn : s.sampleTime.2.dsn = s.dsn := by
  unfold State.sampleTime; cases s.env.timeInput <;> rfl
@[simp] theorem State.sampleTime_dataStatus : s.sampleTime.2.dataStatus = s.dataStatus := by
  unfold State.sampleTime; cases s.env.timeInput <;> rfl
@[simp] theorem State.sampleTime_txHandle : s.sampleTime.2.txHandle = s.txHandle := by
  unfold State.sampleTime; cases s.env.timeInput <;> rfl
@[simp] theorem State.sampleTime_upper : s.sampleTime.2.upper = s.upper := by
  unfold State.sampleTime; cases s.env.timeInput <;> rfl
@[simp] theorem State.sampleTime_lower : s.sampleTime.2.lower = s.lower := by
  unfold State.sampleTime; cases s.env.timeInput <;> rfl
@[simp] theorem State.sampleTime_pib : s.sampleTime.2.pib = s.pib := by
  unfold State.sampleTime; cases s.env.timeInput <;> rfl
@[simp] theorem State.sampleTime_ptq : s.sampleTime.2.ptq = s.ptq := by
  unfold State.sampleTime; cases s.env.timeInput <;> rfl
@[simp] theorem State.sampleTime_build : s.sampleTime.2.build = s.build := by
  unfold State.sampleTime; cases s.env.timeInput <;> rfl
@[simp] theorem State.sampleTime_events : s.sampleTime.2.events = s.events := by
  unfold State.sampleTime; cases s.env.timeInput <;> rfl
@[simp] theorem State.sampleTime_ghost : s.sampleTime.2.ghost = s.ghost := by
  unfold State.sampleTime; cases s.env.timeInput <;> rfl
@[simp] theorem State.sampleTime_replies : s.sampleTime.2.env.replies = s.env.replies := by
  unfold State.sampleTime; cases s.env.timeInput <;> rfl
@[simp] theorem State.sampleTime_inbox : s.sampleTime.2.env.inbox = s.env.inbox := by
  unfold State.sampleTime; cases s.env.timeInput <;> rfl

end Machine
end Sys2Proof
end

