-- ==== Sys2Proof/Laws/Ops.lean ====
section
/-!
SUPPORT. What each shared operation of Machine/Ops.lean can do, said once.
-/

namespace Sys2Proof
namespace Machine

/-! ## Sequencing -/

@[simp] theorem andThen_next (s : State) (k : State → Result) :
    Result.andThen (.next s) k = k s := rfl

@[simp] theorem andThen_fault (e : Fault) (k : State → Result) :
    Result.andThen (.fault e) k = .fault e := rfl

@[simp] theorem andThen_refused (e : Refusal) (k : State → Result) :
    Result.andThen (.refused e) k = .refused e := rfl

/-- A sequence answers a next state exactly when both parts do. -/
theorem andThen_eq_next {r : Result} {k : State → Result} {t : State} :
    r.andThen k = .next t ↔ ∃ m, r = .next m ∧ k m = .next t := by
  cases r with
  | next m => exact ⟨fun h => ⟨m, rfl, h⟩, fun ⟨_, hm, h⟩ => by cases hm; exact h⟩
  | fault e => simp
  | refused e => simp

@[simp] theorem finish_eq (s : State) : finish s = .next (s.complete .none) := rfl

/-! ## The registry -/

theorem Triple.slot_bind (t : Triple) (r r' : Role) (h : Handler) :
    (t.bind r h).slot r' = if r' = r then h else t.slot r' := by
  cases r <;> cases r' <;> rfl

theorem Registry.triple_setTriple (g : Registry) (v v' : Svc) (t : Triple) :
    (g.setTriple v t).triple v' = if v' = v then t else g.triple v' := by
  cases v <;> cases v' <;> rfl

/-- Reading a slot of a registry after binding one. -/
theorem Registry.slot_bind (g : Registry) (v v' : Svc) (r r' : Role) (h : Handler) :
    ((g.bind v r h).triple v').slot r' =
      if v' = v ∧ r' = r then h else (g.triple v').slot r' := by
  simp only [Registry.bind, Registry.triple_setTriple]
  by_cases hv : v' = v
  · subst hv
    simp [Triple.slot_bind]
  · simp [hv]

/-- Reading a slot after binding one: the handler in that slot, the old value in every other. -/
theorem State.slot_bindSlot (s : State) (i i' : Inst) (v v' : Svc) (r r' : Role) (h : Handler) :
    (s.bindSlot i v r h).slot i' v' r' =
      if i' = i ∧ v' = v ∧ r' = r then h else s.slot i' v' r' := by
  cases i <;> cases i' <;> simp [State.bindSlot, State.slot, State.registry, Registry.slot_bind]

theorem State.slot_of_registries {s t : State} (hu : t.upper = s.upper) (hl : t.lower = s.lower)
    (i : Inst) (v : Svc) (r : Role) : t.slot i v r = s.slot i v r := by
  cases i <;> simp [State.slot, State.registry, hu, hl]

/-! ## Ghost bits -/

theorem InFlight.bit_setBit (g : InFlight) (v v' : Svc) (b : Bool) :
    (g.setBit v b).bit v' = if v' = v then b else g.bit v' := by
  cases v <;> cases v' <;> rfl

/-- Writing a bit with what it held is no write. -/
@[simp] theorem InFlight.setBit_bit (g : InFlight) (v : Svc) : g.setBit v (g.bit v) = g := by
  cases v <;> rfl

/-- The last write of a bit counts. -/
@[simp] theorem InFlight.setBit_setBit (g : InFlight) (v : Svc) (a b : Bool) :
    (g.setBit v a).setBit v b = g.setBit v b := by
  cases v <;> rfl

/-- A Confirm taken, and processed with nothing between: its service's bit is clear. -/
theorem State.endConfirm_beginConfirm_ghost (s : State) (v : Svc) :
    ((s.beginConfirm v).endConfirm v (s.ghost.confirming.bit v)).ghost =
      { s.ghost with inFlight := s.ghost.inFlight.setBit v false } := by
  simp

/-! ## Call-if-present -/

theorem callIfPresent_null {f : Invoke} {a : OutArgs} {s : State}
    (h : s.slot a.inst a.svc a.role = 0#32) : callIfPresent f a s = .next s := by
  simp [callIfPresent, h]

theorem callIfPresent_bound {f : Invoke} {a : OutArgs} {s : State}
    (h : s.slot a.inst a.svc a.role ≠ 0#32) :
    callIfPresent f a s = f { handler := s.slot a.inst a.svc a.role, args := a } s := by
  simp [callIfPresent, h]

theorem gated_null {i : Inst} {v : Svc} {r : Role} {b : State → Result} {s : State}
    (h : s.slot i v r = 0#32) : gated i v r b s = .next (s.complete .none) := by
  simp [gated, h]

theorem gated_bound {i : Inst} {v : Svc} {r : Role} {b : State → Result} {s : State}
    (h : s.slot i v r ≠ 0#32) : gated i v r b s = b s := by
  simp [gated, h]

/-! ## The queue -/

/-- The scan finds nothing exactly when no entry has the handle. -/
theorem removeFirst_eq_none {h : Byte} {q : List PtqEntry} :
    removeFirst h q = none ↔ ∀ e ∈ q, e.handle ≠ h := by
  induction q with
  | nil => simp [removeFirst]
  | cons e es ih =>
    by_cases he : e.handle = h
    · simp [removeFirst, he]
    · simp only [removeFirst, he, if_false, List.mem_cons, forall_eq_or_imp, ne_eq, not_false_eq_true,
        true_and]
      rw [← ih]
      cases removeFirst h es <;> simp

/-- The scan removes the first entry with the handle and keeps every other entry in its order. -/
theorem removeFirst_eq_some {h : Byte} {q q' : List PtqEntry} :
    removeFirst h q = some q' ↔
      ∃ a e b, q = a ++ e :: b ∧ (∀ x ∈ a, x.handle ≠ h) ∧ e.handle = h ∧ q' = a ++ b := by
  induction q generalizing q' with
  | nil => simp [removeFirst]
  | cons e es ih =>
    by_cases he : e.handle = h
    · simp only [removeFirst, he, if_true, Option.some.injEq]
      constructor
      · rintro rfl
        exact ⟨[], e, es, rfl, by simp, he, rfl⟩
      · rintro ⟨a, x, b, hq, ha, hx, rfl⟩
        cases a with
        | nil => cases hq; rfl
        | cons y ys => cases hq; exact absurd he (ha _ (List.mem_cons_self ..))
    · simp only [removeFirst, he, if_false]
      constructor
      · intro hr
        cases hes : removeFirst h es with
        | none => rw [hes] at hr; cases hr
        | some es' =>
          rw [hes] at hr
          obtain ⟨a, x, b, rfl, ha, hx, rfl⟩ := ih.mp hes
          cases hr
          exact ⟨e :: a, x, b, rfl, by simpa using ⟨he, ha⟩, hx, rfl⟩
      · rintro ⟨a, x, b, hq, ha, hx, rfl⟩
        cases a with
        | nil => cases hq; exact absurd hx he
        | cons y ys =>
          cases hq
          have hes : removeFirst h (ys ++ x :: b) = some (ys ++ b) :=
            ih.mpr ⟨ys, x, b, rfl, fun z hz => ha z (List.mem_cons_of_mem _ hz), hx, rfl⟩
          simp [hes]

theorem removeFirst_length {h : Byte} {q q' : List PtqEntry} (hr : removeFirst h q = some q') :
    q.length = q'.length + 1 := by
  obtain ⟨a, e, b, rfl, -, -, rfl⟩ := removeFirst_eq_some.mp hr
  simp
  omega

/-- What PtqAdd does: the sample is taken, and the entry stored unless the table is full. -/
theorem ptqAddOp_eq (h : Byte) (k : TxKind) (a : Bool) (s : State) :
    ptqAddOp h k a s =
      if s.ptq.length = Config.ptqSlots then (.droppedFull, s.sampleTime.2)
      else (.stored, s.sampleTime.2.setPtq (s.ptq ++ [⟨h, k, a, s.sampleTime.1⟩])) := by
  simp [ptqAddOp]

/-- What PtqRemove does to the state: at most the queue changes. -/
theorem ptqRemoveOp_eq (h : Byte) (s : State) :
    ptqRemoveOp h s = (.notFound, s) ∧ removeFirst h s.ptq = none ∨
      ∃ q, ptqRemoveOp h s = (.found, s.setPtq q) ∧ removeFirst h s.ptq = some q := by
  cases hr : removeFirst h s.ptq with
  | none => exact .inl ⟨by simp [ptqRemoveOp, hr], rfl⟩
  | some q => exact .inr ⟨q, by simp [ptqRemoveOp, hr], rfl⟩

/-! ## The PIB -/

/-- An accepted value leaves the attributes in their ranges (10_state.md R29). -/
theorem Pib.store_bounds {p : Pib} {a : PibAttr} {v : BitVec 32} (h : p.accepts a v = true)
    (hc : p.currentChannel.toNat ≤ Config.channelMax) (ht : p.transmitPower.toNat ≤ Config.txPowerMax)
    (hm : p.ccaMode.toNat ≤ Config.ccaModeMax) :
    (p.store a v).currentChannel.toNat ≤ Config.channelMax ∧
    (p.store a v).transmitPower.toNat ≤ Config.txPowerMax ∧
    (p.store a v).ccaMode.toNat ≤ Config.ccaModeMax := by
  have hmod : v.toNat % 256 ≤ v.toNat := Nat.mod_le _ _
  cases a <;> simp_all [Pib.accepts, Pib.store] <;> omega

end Machine
end Sys2Proof
end

