-- ==== Sys2Proof/Laws/Handlers.lean ====
section
/-!
SUPPORT. What a command with its handlers can do, said once. `exec_keeps` is the packaged induction over
nested commands: a property of states that the shared writes keep is kept by every command, whatever
its handlers do. `runHandler_depth` says that the recursion depth of a handler call never matters, so
that a nested command is run by `exec` itself (`runInstr_depth`).
-/

namespace Sys2Proof
namespace Machine

/-- A part of a command keeps a property when it answers a next state. -/
def Keeps (P : State → Prop) (f : State → Result) : Prop :=
  ∀ s t, P s → f s = .next t → P t

/-- A property that every shared write keeps. `kind` marks the commands that are shut out: the writes
made only by those need not keep it. -/
structure Closed (kind : Opcode → Bool) (P : State → Prop) : Prop where
  log : ∀ s e, P s → P (s.log e)
  ghost : ∀ s g, (s.ghost.doubleIssue = true → g.doubleIssue = true) → P s → P (s.setGhost g)
  reply : ∀ s, P s → P s.dropReply
  sample : ∀ s, P s → P s.sampleTime.2
  trx : kind .setTrxCnf = false → ∀ s v, P s → P (s.setTrxState v)
  dsn : (kind .encodeFrame = false ∨ kind .dataReq = false) → ∀ s, P s → P (s.setDsn (s.dsn + 1#8))
  status : (kind .dataReq = false ∨ kind .dataCnf = false) → ∀ s v, P s → P (s.setDataStatus v)
  handle : kind .dataReq = false → ∀ s v, P s → P (s.setTxHandle v)
  bind : ∀ i v r, kind (.bind i v r) = false → ∀ s h, P s → P (s.bindSlot i v r h)
  pib : kind .setReq = false → ∀ s a v, s.pib.accepts a v = true → P s → P (s.setPib (s.pib.store a v))
  add : (kind .ptqAdd = false ∨ kind .dataReq = false) →
    ∀ s e, s.ptq.length ≠ Config.ptqSlots → P s → P (s.setPtq (s.ptq ++ [e]))
  remove : (kind .ptqRemove = false ∨ kind .dataCnf = false) →
    ∀ s h q, removeFirst h s.ptq = some q → P s → P (s.setPtq q)

namespace Closed

variable {kind : Opcode → Bool} {P : State → Prop} (hP : Closed kind P)
include hP

theorem complete (s : State) (c : Completion) (h : P s) : P (s.complete c) := hP.log _ _ h

theorem noteRequest (s : State) (v : Svc) (h : P s) : P (s.noteRequest v) :=
  hP.ghost _ _ (fun hd => by simp [hd]) h

theorem noteForwarded (s : State) (v : Svc) (h : P s) : P (s.noteForwarded v) :=
  hP.ghost _ _ (fun hd => by simp [hd]) h

theorem beginConfirm (s : State) (v : Svc) (h : P s) : P (s.beginConfirm v) :=
  hP.ghost _ _ id h

theorem endConfirm (s : State) (v : Svc) (b : Bool) (h : P s) : P (s.endConfirm v b) :=
  hP.ghost _ _ id h

theorem emit (s : State) (c : OutCall) (h : P s) : P (s.emit c) := by
  unfold State.emit
  cases c.args.role
  · exact hP.noteForwarded _ _ (hP.log _ _ h)
  · exact hP.log _ _ h
  · exact hP.log _ _ h

theorem track (hk : kind .setTrxCnf = false) (s : State) (v : Status) (h : P s) :
    P (s.trackStatus v) := by
  unfold State.trackStatus
  cases TrxState.ofStatus v with
  | none => exact h
  | some t => exact hP.trx hk _ _ h

theorem ptqAddOp (hk : kind .ptqAdd = false ∨ kind .dataReq = false) (b : Byte) (k : TxKind) (a : Bool)
    (s : State) (h : P s) : P (ptqAddOp b k a s).2 := by
  rw [ptqAddOp_eq]
  split
  · exact hP.sample _ h
  · rename_i hfull
    have := hP.add hk s.sampleTime.2 ⟨b, k, a, s.sampleTime.1⟩ (by simpa using hfull) (hP.sample _ h)
    simpa using this

theorem ptqRemoveOp (hk : kind .ptqRemove = false ∨ kind .dataCnf = false) (b : Byte) (s : State)
    (h : P s) : P (ptqRemoveOp b s).2 := by
  obtain ⟨he, -⟩ | ⟨q, he, hr⟩ := ptqRemoveOp_eq b s
  · rw [he]; exact h
  · rw [he]; exact hP.remove hk _ _ _ hr h

variable {f : Invoke} (hf : ∀ c, Keeps P (f c))
include hf

omit hP in
theorem callIfPresent (a : OutArgs) : Keeps P (callIfPresent f a) := by
  intro s t hs ht
  by_cases h : s.slot a.inst a.svc a.role = 0#32
  · rw [callIfPresent_null h] at ht; cases ht; exact hs
  · rw [callIfPresent_bound h] at ht; exact hf _ _ _ hs ht

theorem callAndFinish (a : OutArgs) : Keeps P (callAndFinish f a) := by
  intro s t hs ht
  obtain ⟨m, hm, ht⟩ := andThen_eq_next.mp ht
  cases ht
  exact hP.complete _ _ (Closed.callIfPresent hf a _ _ hs hm)

omit hf in
theorem whileConfirming {v : Svc} {b : State → Result} (hb : Keeps P b) :
    Keeps P (whileConfirming v b) := by
  intro s t hs ht
  obtain ⟨m, hm, ht⟩ := andThen_eq_next.mp ht
  cases ht
  exact hP.complete _ _ (hP.endConfirm _ _ _ (hb _ _ (hP.beginConfirm _ _ hs) hm))

theorem confirmAndFinish (a : OutArgs) : Keeps P (confirmAndFinish f a) :=
  hP.whileConfirming (Closed.callIfPresent hf a)

omit hf in
theorem gated {i : Inst} {v : Svc} {r : Role} {b : State → Result} (hb : Keeps P b) :
    Keeps P (gated i v r b) := by
  intro s t hs ht
  by_cases h : s.slot i v r = 0#32
  · rw [gated_null h] at ht; cases ht; exact hP.complete _ _ hs
  · rw [gated_bound h] at ht; exact hb _ _ hs ht

theorem setTrxBody (v : Status) : Keeps P (setTrxBody f v) := by
  intro s t hs ht
  have hs' := hP.noteRequest s .setTrx hs
  simp only [Machine.setTrxBody] at ht
  split at ht
  · exact Closed.callIfPresent hf _ _ _ hs' ht
  · exact Closed.callIfPresent hf _ _ _ hs' ht

theorem dataForward (hk : kind .dataReq = false) (r : EncodeRequest) : Keeps P (dataForward f r) := by
  intro s t hs ht
  simp only [Machine.dataForward, encodeOp] at ht
  refine hP.callAndFinish hf _ _ _ ?_ ht
  exact hP.status (.inl hk) _ _ (hP.ptqAddOp (.inr hk) _ _ _ _ (hP.handle hk _ _ (hP.dsn (.inr hk) _ hs)))

/-- Every command keeps a property that the shared writes and its handlers keep. -/
theorem runInstr (i : Instr) (hi : kind i.opcode = false) : Keeps P (runInstr f i) := by
  cases i with
  | dataReq r =>
    refine hP.gated ?_
    intro s t hs ht
    have hs' := hP.noteRequest _ .setTrx (hP.noteRequest s .data hs)
    dsimp only at ht
    split at ht
    · exact hP.callAndFinish hf _ _ _ (hP.status (.inl hi) _ _ hs') ht
    · split at ht
      · exact hP.callAndFinish hf _ _ _ (hP.status (.inl hi) _ _ hs') ht
      · obtain ⟨m, hm, ht⟩ := andThen_eq_next.mp ht
        have hm' := hP.setTrxBody hf _ _ _ hs' hm
        unfold dataAfterSetTrx at ht
        split at ht
        · exact hP.dataForward hf hi r _ _ hm' ht
        · cases ht; exact hP.complete _ _ hm'
  | ccaReq =>
    refine hP.gated ?_
    intro s t hs ht
    have hs' := hP.noteRequest s .cca hs
    dsimp only at ht
    split at ht
    · exact hP.callAndFinish hf _ _ _ hs' ht
    · exact hP.callAndFinish hf _ _ _ hs' ht
  | edReq =>
    refine hP.gated ?_
    intro s t hs ht
    have hs' := hP.noteRequest s .ed hs
    dsimp only at ht
    split at ht
    · exact hP.callAndFinish hf _ _ _ hs' ht
    · exact hP.callAndFinish hf _ _ _ hs' ht
  | getReq attr =>
    refine hP.gated ?_
    intro s t hs ht
    have hs' := hP.noteRequest s .get hs
    dsimp only at ht
    split at ht
    · exact hP.callAndFinish hf _ _ _ hs' ht
    · exact hP.callAndFinish hf _ _ _ hs' ht
  | setTrxReq target =>
    refine hP.gated ?_
    intro s t hs ht
    obtain ⟨m, hm, ht⟩ := andThen_eq_next.mp ht
    cases ht
    exact hP.complete _ _ (hP.setTrxBody hf _ _ _ hs hm)
  | setReq attr value =>
    refine hP.gated ?_
    intro s t hs ht
    have hs' := hP.noteRequest s .set hs
    dsimp only at ht
    split at ht
    · exact hP.callAndFinish hf _ _ _ hs' ht
    · split at ht
      · rename_i ha
        exact hP.callAndFinish hf _ _ _ (hP.pib hi _ _ _ ha hs') ht
      · exact hP.callAndFinish hf _ _ _ hs' ht
  | dataCnf status =>
    refine hP.gated (hP.whileConfirming ?_)
    intro s t hs ht
    obtain ⟨m, hm, ht⟩ := andThen_eq_next.mp ht
    have hm' := hP.setTrxBody hf _ _ _ hs hm
    exact Closed.callIfPresent hf _ _ _
      (hP.status (.inr hi) _ _ (hP.ptqRemoveOp (.inr hi) _ _ hm')) ht
  | dataInd rxbuf declaredLength =>
    refine hP.gated ?_
    intro s t hs ht
    dsimp only at ht
    split at ht
    · cases ht; exact hP.complete _ _ hs
    · obtain ⟨m, hm, ht⟩ := andThen_eq_next.mp ht
      cases ht
      exact hP.complete _ _ (Closed.callIfPresent hf _ _ _ hs hm)
  | ccaCnf status => exact hP.gated (hP.confirmAndFinish hf _)
  | edCnf status energyLevel => exact hP.gated (hP.confirmAndFinish hf _)
  | getCnf status attr value => exact hP.gated (hP.confirmAndFinish hf _)
  | setTrxCnf status =>
    refine hP.gated ?_
    intro s t hs ht
    exact hP.confirmAndFinish hf _ _ _ (hP.track hi _ _ hs) ht
  | setCnf status attr => exact hP.gated (hP.confirmAndFinish hf _)
  | bindU svc role handler =>
    intro s t hs ht
    cases ht
    exact hP.complete _ _ (hP.bind _ _ _ hi _ _ hs)
  | bindL svc role handler =>
    intro s t hs ht
    cases ht
    exact hP.complete _ _ (hP.bind _ _ _ hi _ _ hs)
  | decodeFrame rxbuf declaredLength =>
    intro s t hs ht
    cases ht
    exact hP.complete _ _ hs
  | encodeFrame r =>
    intro s t hs ht
    cases ht
    exact hP.complete _ _ (hP.dsn (.inl hi) _ hs)
  | ptqAdd handle kind ackRequired =>
    intro s t hs ht
    cases ht
    exact hP.complete _ _ (hP.ptqAddOp (.inl hi) _ _ _ _ hs)
  | ptqRemove handle =>
    intro s t hs ht
    cases ht
    exact hP.complete _ _ (hP.ptqRemoveOp (.inl hi) _ _ hs)

end Closed

/-! ## Handlers that issue no command of a kind -/

theorem Env.avoids_tail {kind : Opcode → Bool} {e : Env} (h : e.avoids kind) :
    ({ e with replies := e.replies.tail } : Env).avoids kind :=
  fun r hr => h r (List.mem_of_mem_tail hr)

theorem Env.avoids_of_replies {kind : Opcode → Bool} {e e' : Env} (hr : e'.replies = e.replies)
    (h : e.avoids kind) : e'.avoids kind := fun r hm => h r (hr ▸ hm)

/-- The handlers to come go on avoiding what they avoid. -/
theorem Closed.withAvoids {kind : Opcode → Bool} {P : State → Prop} (hP : Closed kind P) :
    Closed kind (fun s => P s ∧ s.env.avoids kind) where
  log s e h := ⟨hP.log s e h.1, h.2⟩
  ghost s g hg h := ⟨hP.ghost s g hg h.1, h.2⟩
  reply s h := ⟨hP.reply s h.1, Env.avoids_tail h.2⟩
  sample s h := ⟨hP.sample s h.1, Env.avoids_of_replies (State.sampleTime_replies s) h.2⟩
  trx hk s v h := ⟨hP.trx hk s v h.1, h.2⟩
  dsn hk s h := ⟨hP.dsn hk s h.1, h.2⟩
  status hk s v h := ⟨hP.status hk s v h.1, h.2⟩
  handle hk s v h := ⟨hP.handle hk s v h.1, h.2⟩
  bind i v r hk s b h := ⟨hP.bind i v r hk s b h.1, by cases i <;> exact h.2⟩
  pib hk s a v ha h := ⟨hP.pib hk s a v ha h.1, h.2⟩
  add hk s e hl h := ⟨hP.add hk s e hl h.1, h.2⟩
  remove hk s b q hr h := ⟨hP.remove hk s b q hr h.1, h.2⟩

theorem runRejected_keeps {kind : Opcode → Bool} {P : State → Prop} (hP : Closed kind P)
    (e : CommandError) : Keeps P (runRejected e) := by
  intro s t hs ht
  cases e <;> simp only [runRejected] at ht <;> cases ht
  exact hP.complete _ _ hs

/-- The commands a handler issues keep a property, if none of them is of a kind shut out. -/
theorem runAll_keeps {kind : Opcode → Bool} {P : State → Prop} (hP : Closed kind P)
    {run : Instr → State → Result} (hrun : ∀ i, kind i.opcode = false → Keeps P (run i)) :
    ∀ cs : List Octets, (∀ c ∈ cs, ∀ i rest, decode c = .ok (i, rest) → kind i.opcode = false) →
      Keeps P (runAll run cs) := by
  intro cs
  induction cs with
  | nil => intro _ s t hs ht; cases ht; exact hs
  | cons c cs ih =>
    intro hcs s t hs ht
    obtain ⟨m, hm, ht⟩ := andThen_eq_next.mp ht
    refine ih (fun x hx => hcs x (List.mem_cons_of_mem _ hx)) m t ?_ ht
    unfold runOctets at hm
    split at hm
    · rename_i i rest hd
      exact hrun i (hcs c (List.mem_cons_self ..) i rest hd) _ _ hs hm
    · exact runRejected_keeps hP _ _ _ hs hm

theorem runHandler_keeps {kind : Opcode → Bool} {P : State → Prop} (hP : Closed kind P) (depth : Nat)
    (c : OutCall) : Keeps (fun s => P s ∧ s.env.avoids kind) (runHandler depth c) := by
  induction depth generalizing c with
  | zero => intro s t hs ht; cases ht; exact hP.withAvoids.emit _ _ hs
  | succ depth ih =>
    intro s t hs ht
    unfold runHandler at ht
    split at ht
    · cases ht; exact hP.withAvoids.emit _ _ hs
    · rename_i reply rest hr
      obtain ⟨m, hm, ht⟩ := andThen_eq_next.mp ht
      have hc : ∀ x ∈ reply.commands, ∀ i rest, decode x = .ok (i, rest) → kind i.opcode = false :=
        hs.2 reply (by simp [hr])
      have hm' := runAll_keeps hP.withAvoids (fun i hi => hP.withAvoids.runInstr ih i hi) _ hc _ _
        (hP.withAvoids.reply _ (hP.withAvoids.emit _ c hs)) hm
      unfold handlerReturns at ht
      split at ht
      · cases ht; exact hm'
      · cases ht

/-! ## The packaged induction -/

/-- A command is its body over the handlers of the state's environment. -/
theorem exec_eq_runInstr (i : Instr) (s : State) : exec i s = runInstr invokeHandler i s := by
  cases i <;> rfl

/-- A property that every shared write keeps is kept by every command whose handlers, too, issue no
command of a kind shut out. -/
theorem exec_keeps {kind : Opcode → Bool} {P : State → Prop} (hP : Closed kind P) {i : Instr}
    {s t : State} (hi : kind i.opcode = false) (ha : s.env.avoids kind) (hs : P s)
    (ht : exec i s = .next t) : P t := by
  rw [exec_eq_runInstr] at ht
  exact (hP.withAvoids.runInstr (fun c s t hs ht => runHandler_keeps hP _ c s t hs ht) i hi s t
    ⟨hs, ha⟩ ht).1

theorem Env.avoids_nothing (e : Env) : e.avoids (fun _ => false) := fun _ _ _ _ _ _ _ => rfl

/-! ## The depth of a handler call does not matter -/

/-- No command adds a reply. -/
theorem closed_replies_le (n : Nat) :
    Closed (fun _ => false) (fun s : State => s.env.replies.length ≤ n) where
  log _ _ h := h
  ghost _ _ _ h := h
  reply s h := by
    have : s.env.replies.tail.length ≤ s.env.replies.length := by simp
    exact Nat.le_trans this h
  sample s h := by simpa using h
  trx _ _ _ h := h
  dsn _ _ h := h
  status _ _ _ h := h
  handle _ _ _ h := h
  bind i _ _ _ _ _ h := by cases i <;> exact h
  pib _ _ _ _ _ h := h
  add _ _ _ _ h := h
  remove _ _ _ _ _ h := h

theorem runHandler_replies_le (depth n : Nat) (c : OutCall) :
    Keeps (fun s => s.env.replies.length ≤ n) (runHandler depth c) :=
  fun s t hs ht => (runHandler_keeps (closed_replies_le n) depth c s t ⟨hs, Env.avoids_nothing _⟩ ht).1

/-- Two ways of running a handler that agree on all states with at most `n` replies. -/
structure Agree (n : Nat) (f g : Invoke) : Prop where
  eq : ∀ c s, s.env.replies.length ≤ n → f c s = g c s
  le : ∀ c, Keeps (fun s => s.env.replies.length ≤ n) (f c)

namespace Agree

variable {n : Nat} {f g : Invoke} (h : Agree n f g)
include h

theorem callIfPresent (a : OutArgs) (s : State) (hs : s.env.replies.length ≤ n) :
    callIfPresent f a s = callIfPresent g a s := by
  by_cases hn : s.slot a.inst a.svc a.role = 0#32
  · rw [callIfPresent_null hn, callIfPresent_null hn]
  · rw [callIfPresent_bound hn, callIfPresent_bound hn, h.eq _ _ hs]

theorem callAndFinish (a : OutArgs) (s : State) (hs : s.env.replies.length ≤ n) :
    callAndFinish f a s = callAndFinish g a s := by
  simp only [Machine.callAndFinish, h.callIfPresent a s hs]

omit h in
theorem whileConfirming {v : Svc} {b b' : State → Result} {s : State}
    (hb : b (s.beginConfirm v) = b' (s.beginConfirm v)) :
    whileConfirming v b s = whileConfirming v b' s := by
  simp only [Machine.whileConfirming, hb]

theorem confirmAndFinish (a : OutArgs) (s : State) (hs : s.env.replies.length ≤ n) :
    confirmAndFinish f a s = confirmAndFinish g a s :=
  whileConfirming (h.callIfPresent a (s.beginConfirm a.svc) hs)

theorem setTrxBody (v : Status) (s : State) (hs : s.env.replies.length ≤ n) :
    setTrxBody f v s = setTrxBody g v s := by
  simp only [Machine.setTrxBody, h.callIfPresent _ (s.noteRequest .setTrx) hs]

/-- After the internal SETTRX request the two ways still agree. -/
theorem afterSetTrx (v : Status) (s : State) (hs : s.env.replies.length ≤ n) (k k' : State → Result)
    (hk : ∀ m : State, m.env.replies.length ≤ n → k m = k' m) :
    (Machine.setTrxBody f v s).andThen k = (Machine.setTrxBody g v s).andThen k' := by
  rw [← h.setTrxBody v s hs]
  cases hm : Machine.setTrxBody f v s with
  | next m => exact hk m ((closed_replies_le n).setTrxBody h.le v s m hs hm)
  | fault e => rfl
  | refused e => rfl

omit h in
theorem gated {i : Inst} {v : Svc} {r : Role} {b b' : State → Result} {s : State} (hb : b s = b' s) :
    gated i v r b s = gated i v r b' s := by
  simp only [Machine.gated, hb]

theorem runInstr (i : Instr) (s : State) (hs : s.env.replies.length ≤ n) :
    runInstr f i s = runInstr g i s := by
  cases i with
  | dataReq r =>
    simp only [Machine.runInstr, dataReqBody]
    refine gated ?_
    split
    · exact h.callAndFinish _ _ hs
    · split
      · exact h.callAndFinish _ _ hs
      · refine h.afterSetTrx _ ((s.noteRequest .data).noteRequest .setTrx) hs _ _ fun m hm => ?_
        unfold dataAfterSetTrx
        split
        · simp only [dataForward, encodeOp]
          refine h.callAndFinish _ _ ?_
          exact (closed_replies_le n).status (.inl rfl) _ _ ((closed_replies_le n).ptqAddOp (.inl rfl)
            _ _ _ _ ((closed_replies_le n).handle rfl _ _ ((closed_replies_le n).dsn (.inl rfl) _ hm)))
        · rfl
  | ccaReq =>
    simp only [Machine.runInstr, ccaReqBody]
    refine gated ?_
    split
    · exact h.callAndFinish _ _ hs
    · exact h.callAndFinish _ _ hs
  | edReq =>
    simp only [Machine.runInstr, edReqBody]
    refine gated ?_
    split
    · exact h.callAndFinish _ _ hs
    · exact h.callAndFinish _ _ hs
  | getReq attr =>
    simp only [Machine.runInstr, getReqBody]
    refine gated ?_
    split
    · exact h.callAndFinish _ _ hs
    · exact h.callAndFinish _ _ hs
  | setTrxReq target =>
    simp only [Machine.runInstr, setTrxReqBody]
    refine gated ?_
    rw [h.setTrxBody _ _ hs]
  | setReq attr value =>
    simp only [Machine.runInstr, setReqBody]
    refine gated ?_
    split
    · exact h.callAndFinish _ _ hs
    · split
      · exact h.callAndFinish _ _ hs
      · exact h.callAndFinish _ _ hs
  | dataCnf status =>
    simp only [Machine.runInstr, dataCnfBody]
    refine gated (whileConfirming ?_)
    refine h.afterSetTrx _ (s.beginConfirm .data) hs _ _ fun m hm => ?_
    refine h.callIfPresent _ _ ?_
    exact (closed_replies_le n).status (.inl rfl) _ _
      ((closed_replies_le n).ptqRemoveOp (.inl rfl) _ _ hm)
  | dataInd rxbuf declaredLength =>
    simp only [Machine.runInstr, dataIndBody]
    refine gated ?_
    split
    · rfl
    · rw [h.callIfPresent _ _ hs]
  | ccaCnf status =>
    simp only [Machine.runInstr, ccaCnfBody]
    exact gated (h.confirmAndFinish _ _ hs)
  | edCnf status energyLevel =>
    simp only [Machine.runInstr, edCnfBody]
    exact gated (h.confirmAndFinish _ _ hs)
  | getCnf status attr value =>
    simp only [Machine.runInstr, getCnfBody]
    exact gated (h.confirmAndFinish _ _ hs)
  | setTrxCnf status =>
    simp only [Machine.runInstr, setTrxCnfBody]
    refine gated ?_
    exact h.confirmAndFinish _ _ ((closed_replies_le n).track rfl _ _ hs)
  | setCnf status attr =>
    simp only [Machine.runInstr, setCnfBody]
    exact gated (h.confirmAndFinish _ _ hs)
  | bindU svc role handler => rfl
  | bindL svc role handler => rfl
  | decodeFrame rxbuf declaredLength => rfl
  | encodeFrame r => rfl
  | ptqAdd handle kind ackRequired => rfl
  | ptqRemove handle => rfl

theorem runAll (cs : List Octets) (s : State) (hs : s.env.replies.length ≤ n) :
    runAll (Machine.runInstr f) cs s = runAll (Machine.runInstr g) cs s := by
  induction cs generalizing s with
  | nil => rfl
  | cons c cs ih =>
    have hc : runOctets (Machine.runInstr f) c s = runOctets (Machine.runInstr g) c s := by
      unfold runOctets
      split
      · exact h.runInstr _ _ hs
      · rfl
    simp only [Machine.runAll, ← hc]
    cases hm : runOctets (Machine.runInstr f) c s with
    | next m =>
      refine ih m ?_
      unfold runOctets at hm
      split at hm
      · exact (closed_replies_le n).runInstr h.le _ rfl _ _ hs hm
      · exact runRejected_keeps (closed_replies_le n) _ _ _ hs hm
    | fault e => rfl
    | refused e => rfl

end Agree

/-- A handler call at any depth that covers the replies there are is the call at exactly that depth. -/
theorem runHandler_depth {depth : Nat} {c : OutCall} {s : State}
    (h : s.env.replies.length ≤ depth) : runHandler depth c s = invokeHandler c s := by
  suffices hall : ∀ d d' : Nat, ∀ (c : OutCall) (s : State), s.env.replies.length ≤ d →
      s.env.replies.length ≤ d' → runHandler d c s = runHandler d' c s from
    hall depth _ c s h (Nat.le_refl _)
  intro d
  induction d with
  | zero =>
    intro d' c s h0 _
    have hr : s.env.replies = [] := List.length_eq_zero_iff.mp (Nat.le_zero.mp h0)
    cases d' with
    | zero => rfl
    | succ d' => simp [runHandler, hr]
  | succ d ih =>
    intro d' c s hd hd'
    cases d' with
    | zero =>
      have hr : s.env.replies = [] := List.length_eq_zero_iff.mp (Nat.le_zero.mp hd')
      simp [runHandler, hr]
    | succ d' =>
      cases hr : s.env.replies with
      | nil => simp [runHandler, hr]
      | cons reply rest =>
        rw [hr] at hd hd'
        have hag : Agree rest.length (runHandler d) (runHandler d') :=
          ⟨fun c s hs => ih d' c s (Nat.le_trans hs (Nat.le_of_succ_le_succ hd))
              (Nat.le_trans hs (Nat.le_of_succ_le_succ hd')),
            fun c => runHandler_replies_le d _ c⟩
        have hlen : (s.emit c).dropReply.env.replies.length ≤ rest.length := by simp [hr]
        simp only [runHandler, hr, hag.runAll _ _ hlen]

/-- A nested command is run by `exec` itself. -/
theorem runInstr_depth {depth : Nat} {i : Instr} {s : State} (h : s.env.replies.length ≤ depth) :
    runInstr (runHandler depth) i s = exec i s := by
  rw [exec_eq_runInstr]
  exact (Agree.mk (n := depth) (fun c s hs => runHandler_depth hs)
    (fun c => runHandler_replies_le depth _ c)).runInstr i s h

end Machine
end Sys2Proof
end

