-- ==== Sys2Proof/Laws/Calls.lean ====
section
/-!
SUPPORT. What a call through a slot does in a state: with no reply left (`quiet`), and with a reply, whose
commands are run by `exec` itself.
-/

namespace Sys2Proof
namespace Machine

/-! ## With no reply left -/

theorem invokeHandler_quiet {c : OutCall} {s : State} (h : s.quiet) :
    invokeHandler c s = .next (s.emit c) := by
  have hr : s.env.replies = [] := h
  simp [invokeHandler, hr, runHandler]

/-- The state after a call whose handler issues no command. -/
def afterCall (a : OutArgs) (s : State) : State :=
  if s.slot a.inst a.svc a.role = 0#32 then s
  else s.emit { handler := s.slot a.inst a.svc a.role, args := a }

theorem callIfPresent_quiet {a : OutArgs} {s : State} (h : s.quiet) :
    callIfPresent invokeHandler a s = .next (afterCall a s) := by
  by_cases hn : s.slot a.inst a.svc a.role = 0#32
  · simp [callIfPresent_null hn, afterCall, hn]
  · simp [callIfPresent_bound hn, afterCall, hn, invokeHandler_quiet h]

section fields
variable (a : OutArgs) (s : State)

@[simp] theorem afterCall_trxState : (afterCall a s).trxState = s.trxState := by
  unfold afterCall; split <;> simp
@[simp] theorem afterCall_dsn : (afterCall a s).dsn = s.dsn := by
  unfold afterCall; split <;> simp
@[simp] theorem afterCall_dataStatus : (afterCall a s).dataStatus = s.dataStatus := by
  unfold afterCall; split <;> simp
@[simp] theorem afterCall_txHandle : (afterCall a s).txHandle = s.txHandle := by
  unfold afterCall; split <;> simp
@[simp] theorem afterCall_upper : (afterCall a s).upper = s.upper := by
  unfold afterCall; split <;> simp
@[simp] theorem afterCall_lower : (afterCall a s).lower = s.lower := by
  unfold afterCall; split <;> simp
@[simp] theorem afterCall_pib : (afterCall a s).pib = s.pib := by
  unfold afterCall; split <;> simp
@[simp] theorem afterCall_ptq : (afterCall a s).ptq = s.ptq := by
  unfold afterCall; split <;> simp
@[simp] theorem afterCall_build : (afterCall a s).build = s.build := by
  unfold afterCall; split <;> simp
@[simp] theorem afterCall_env : (afterCall a s).env = s.env := by
  unfold afterCall; split <;> simp
@[simp] theorem afterCall_events : (afterCall a s).events = s.events ++ outEvents s a := by
  unfold afterCall outEvents; split <;> simp

end fields

/-- A call leaves the Confirms being processed alone. -/
@[simp] theorem afterCall_confirming (a : OutArgs) (s : State) :
    (afterCall a s).ghost.confirming = s.ghost.confirming := by
  unfold afterCall
  split
  · rfl
  · rw [State.emit_ghost]; split <;> rfl

/-- A service's bit after a call: as before, or set because its Request was handed to the driver. -/
theorem afterCall_inFlight_bit (a : OutArgs) (s : State) (svc : Svc) :
    (afterCall a s).ghost.inFlight.bit svc =
      (s.ghost.inFlight.bit svc || (outEvents s a).any (Event.forwards svc)) := by
  unfold afterCall outEvents
  split
  · simp
  · rw [State.emit_ghost]
    cases a <;> simp [OutArgs.role, OutArgs.svc, Event.forwards, InFlight.bit_setBit] <;> cases svc <;> simp

/-- The mark after a call: as before, or set because a Request was forwarded with one in flight. -/
theorem afterCall_doubleIssue (a : OutArgs) (s : State) :
    (afterCall a s).ghost.doubleIssue =
      (s.ghost.doubleIssue ||
        (decide (s.slot a.inst a.svc a.role ≠ 0#32 ∧ a.role = .request) && s.ghost.outstanding a.svc)) := by
  unfold afterCall
  split
  · rename_i h; simp [h]
  · rename_i h
    rw [State.emit_ghost]
    split
    · rename_i hr; simp only at hr; rw [hr] at h; simp [h, hr]
    · rename_i hr; simp only at hr; simp [hr]

/-- What a call leaves in the event list depends on the registry alone. -/
theorem outEvents_of_registries {s t : State} (hu : t.upper = s.upper) (hl : t.lower = s.lower)
    (a : OutArgs) : outEvents t a = outEvents s a := by
  simp [outEvents, State.slot_of_registries hu hl]

theorem callAndFinish_quiet {a : OutArgs} {s : State} (h : s.quiet) :
    callAndFinish invokeHandler a s = .next ((afterCall a s).complete .none) := by
  simp [callAndFinish, callIfPresent_quiet h]

theorem confirmAndFinish_quiet {a : OutArgs} {s : State} (h : s.quiet) :
    confirmAndFinish invokeHandler a s =
      .next (((afterCall a (s.beginConfirm a.svc)).endConfirm a.svc
        (s.ghost.confirming.bit a.svc)).complete .none) := by
  have h' : (s.beginConfirm a.svc).quiet := h
  simp [confirmAndFinish, whileConfirming, callIfPresent_quiet h']

/-- The internal SETTRX request: one call, through the slot the target selects. -/
theorem setTrxBody_quiet {target : Status} {s : State} (h : s.quiet) :
    setTrxBody invokeHandler target s =
      .next (afterCall (if acceptedTarget target then .setTrxRequest target
        else .setTrxConfirm Status.busyRx) (s.noteRequest .setTrx)) := by
  have h' : (s.noteRequest .setTrx).quiet := h
  unfold setTrxBody
  split <;> exact callIfPresent_quiet h'

/-! ## With a reply -/

/-- The commands of a reply are run by `exec`, at any depth that covers the replies there are. -/
theorem runAll_depth {n : Nat} {cs : List Octets} {s : State} (h : s.env.replies.length ≤ n) :
    runAll (runInstr (runHandler n)) cs s = runAll exec cs s := by
  induction cs generalizing s with
  | nil => rfl
  | cons c cs ih =>
    have hc : runOctets (runInstr (runHandler n)) c s = runOctets exec c s := by
      unfold runOctets
      split
      · exact runInstr_depth h
      · rfl
    simp only [runAll, hc]
    cases hm : runOctets exec c s with
    | next m =>
      refine ih ?_
      rw [← hc] at hm
      unfold runOctets at hm
      split at hm
      · exact (closed_replies_le n).runInstr (fun c => runHandler_replies_le n n c) _ rfl _ _ h hm
      · exact runRejected_keeps (closed_replies_le n) _ _ _ h hm
    | fault e => rfl
    | refused e => rfl

theorem invokeHandler_cons {c : OutCall} {s : State} {reply : Reply} {rest : List Reply}
    (h : s.env.replies = reply :: rest) :
    invokeHandler c s =
      (runAll exec reply.commands (s.emit c).dropReply).andThen (handlerReturns reply) := by
  have hl : s.env.replies.length = rest.length + 1 := by simp [h]
  unfold invokeHandler
  rw [hl]
  simp only [runHandler, h]
  rw [runAll_depth (by simp [h])]

/-- A call whose handler takes a reply. -/
theorem callIfPresent_cons {a : OutArgs} {s : State} {reply : Reply} {rest : List Reply}
    (hs : s.slot a.inst a.svc a.role ≠ 0#32) (h : s.env.replies = reply :: rest) :
    callIfPresent invokeHandler a s =
      (runAll exec reply.commands
        (s.emit { handler := s.slot a.inst a.svc a.role, args := a }).dropReply).andThen
        (handlerReturns reply) := by
  rw [callIfPresent_bound hs, invokeHandler_cons h]

/-- The first command of a list that decodes is run, then the others. -/
theorem runAll_cons {run : Instr → State → Result} {c : Octets} {cs : List Octets} {i : Instr}
    {rest : Octets} (h : decode c = .ok (i, rest)) (s : State) :
    runAll run (c :: cs) s = (run i s).andThen (runAll run cs) := by
  simp [runAll, runOctets, h]

/-- Nothing is called through a NULL slot, and a quiet handler issues nothing: the call is its event. -/
theorem callIfPresent_silent {a : OutArgs} {s : State}
    (h : s.quiet ∨ s.slot a.inst a.svc a.role = 0#32) :
    callIfPresent invokeHandler a s = .next (afterCall a s) := by
  rcases h with h | h
  · exact callIfPresent_quiet h
  · rw [callIfPresent_null h, afterCall, if_pos h]

end Machine
end Sys2Proof
end

