-- ==== Sys2Proof/Laws/Codec.lean ====
section
/-!
SUPPORT. The reader of a receive buffer as a position in the buffer, what each part of DECODE does at a
position, and the lengths of what ENCODE writes (40_codec.md; 20_memory.md R51).
-/

namespace Sys2Proof
namespace Machine

/-! ## The reader -/

/-- The reader of `buf` at offset `n`. -/
def Reader.at (buf : Octets) (n : Nat) : Reader := { cur := n, rest := buf.drop n }

@[simp] theorem Reader.at_cur (buf : Octets) (n : Nat) : (Reader.at buf n).cur = n := rfl

/-- `Need(k)` at an offset within the buffer. -/
theorem Reader.need_at (buf : Octets) {n k : Nat} (hn : n ≤ buf.length) :
    (Reader.at buf n).need k = if n + k ≤ buf.length then .ok () else .error .truncated := by
  have h : (k ≤ buf.length - n) ↔ (n + k ≤ buf.length) := by omega
  simp [Reader.need, Reader.at, h]

/-- Reading `k` octets at an offset within the buffer. -/
theorem Reader.take_at (buf : Octets) {n k : Nat} (hn : n ≤ buf.length) :
    (Reader.at buf n).take k =
      if n + k ≤ buf.length then .ok ((buf.drop n).take k, Reader.at buf (n + k))
      else .error .truncated := by
  have h : (k ≤ buf.length - n) ↔ (n + k ≤ buf.length) := by omega
  simp [Reader.take, Reader.at, h]

/-- Reading a `k`-octet value at an offset within the buffer. -/
theorem Reader.value_at (buf : Octets) {n k : Nat} (hn : n ≤ buf.length) :
    (Reader.at buf n).value k =
      if n + k ≤ buf.length then .ok (leValue ((buf.drop n).take k), Reader.at buf (n + k))
      else .error .truncated := by
  simp only [Reader.value, Reader.take_at buf hn]
  split <;> rfl

/-! ## The steps of DECODE -/

theorem readPan_at (buf : Octets) {n : Nat} (hn : n ≤ buf.length) :
    readPan (Reader.at buf n) =
      if n + 2 ≤ buf.length then
        .ok (BitVec.ofNat 16 (leValue ((buf.drop n).take 2)), Reader.at buf (n + 2))
      else .error .truncated := by
  simp only [readPan, Reader.value_at buf hn]
  by_cases h : n + 2 ≤ buf.length
  · simp only [h, if_true, bind, Except.bind]
  · simp only [h, if_false, bind, Except.bind]

theorem readAddr_at (buf : Octets) (mode : AddrMode) {n : Nat} (hn : n ≤ buf.length) :
    readAddr mode (Reader.at buf n) =
      if n + mode.width ≤ buf.length then
        .ok (BitVec.ofNat 64 (leValue ((buf.drop n).take mode.width)), Reader.at buf (n + mode.width))
      else .error .truncated := by
  simp only [readAddr, Reader.value_at buf hn]
  by_cases h : n + mode.width ≤ buf.length
  · simp only [h, if_true, bind, Except.bind]
  · simp only [h, if_false, bind, Except.bind]

/-- A PAN identifier and an address behind it, read at an offset. -/
theorem readPan_readAddr_at (buf : Octets) (mode : AddrMode) {n : Nat} (hn : n ≤ buf.length) :
    (do
      let (pan, r) ← readPan (Reader.at buf n)
      let (addr, r) ← readAddr mode r
      .ok (({ mode, pan, addr } : AddrFields), r) : Except DecodeError (AddrFields × Reader)) =
      if n + (2 + mode.width) ≤ buf.length then
        .ok ({ mode, pan := BitVec.ofNat 16 (leValue ((buf.drop n).take 2)),
               addr := BitVec.ofNat 64 (leValue ((buf.drop (n + 2)).take mode.width)) },
          Reader.at buf (n + (2 + mode.width)))
      else .error .truncated := by
  rw [readPan_at buf hn]
  by_cases h : n + 2 ≤ buf.length
  · simp only [h, if_true, bind, Except.bind, readAddr_at buf mode h, Nat.add_assoc]
    by_cases h' : n + (2 + mode.width) ≤ buf.length
    · simp only [h', if_true]
    · simp only [h', if_false]
  · have h' : ¬ n + (2 + mode.width) ≤ buf.length := by omega
    simp only [h, h', if_false, bind, Except.bind]

/-- What step 1 finds: where the mode is Absent, zeros; else a PAN identifier and an address. -/
def dstAt (buf : Octets) (mode : AddrMode) : AddrFields :=
  { mode
    pan := if mode = .absent then 0#16 else BitVec.ofNat 16 (leValue ((buf.drop 3).take 2))
    addr := BitVec.ofNat 64 (leValue ((buf.drop 5).take mode.width)) }

/-- Step 1 at offset 3. -/
theorem readDst_at {buf : Octets} {fc : BitVec 16} {mode : AddrMode} (hb : 3 ≤ buf.length)
    (hm : AddrMode.ofField (fcDstMode fc) = some mode) :
    readDst fc (Reader.at buf 3) =
      if 3 + dstFieldsLen mode ≤ buf.length then
        .ok (dstAt buf mode, Reader.at buf (3 + dstFieldsLen mode))
      else .error .truncated := by
  cases mode
  · simp [readDst, hm, dstFieldsLen, hb, dstAt, AddrMode.width, leValue]
  · rw [readDst, hm]
    exact readPan_readAddr_at buf .short16 hb
  · rw [readDst, hm]
    exact readPan_readAddr_at buf .extended64 hb

/-- Step 1 with a Reserved mode. -/
theorem readDst_reserved {fc : BitVec 16} (r : Reader) (hm : AddrMode.ofField (fcDstMode fc) = none) :
    readDst fc r = .error .invalidAddressing := by
  rw [readDst, hm]

/-- What step 2 finds at offset `n`. -/
def srcAt (buf : Octets) (n : Nat) (mode : AddrMode) (intraPan : Bool) (dstPan : PanId) : AddrFields :=
  { mode
    pan := if mode = .absent then 0#16 else if intraPan then dstPan
      else BitVec.ofNat 16 (leValue ((buf.drop n).take 2))
    addr := BitVec.ofNat 64
      (leValue ((buf.drop (if intraPan then n else n + 2)).take mode.width)) }

/-- Step 2 at an offset. -/
theorem readSrc_at {buf : Octets} {fc : BitVec 16} {mode : AddrMode} {n : Nat} {dstPan : PanId}
    (hb : n ≤ buf.length) (hm : AddrMode.ofField (fcSrcMode fc) = some mode) :
    readSrc fc dstPan (Reader.at buf n) =
      if n + srcFieldsLen mode (fcIntraPan fc) ≤ buf.length then
        .ok (srcAt buf n mode (fcIntraPan fc) dstPan,
          Reader.at buf (n + srcFieldsLen mode (fcIntraPan fc)))
      else .error .truncated := by
  cases mode
  · simp [readSrc, hm, srcFieldsLen, hb, srcAt, AddrMode.width, leValue]
  all_goals
    rw [readSrc, hm]
    cases hi : fcIntraPan fc
    · exact readPan_readAddr_at buf _ hb
    · simp only [if_true, bind, Except.bind, readAddr_at buf _ hb]
      split
      · rename_i h
        split at h <;> cases h
        rename_i h
        simp only [srcFieldsLen, AddrMode.width, if_true, Nat.zero_add] at h ⊢
        simp only [h, if_false]
      · rename_i h
        split at h <;> cases h
        rename_i h
        simp only [srcFieldsLen, AddrMode.width, if_true, Nat.zero_add] at h ⊢
        simp [h, srcAt, AddrMode.width]

/-- Step 2 with a Reserved mode. -/
theorem readSrc_reserved {fc : BitVec 16} (dstPan : PanId) (r : Reader)
    (hm : AddrMode.ofField (fcSrcMode fc) = none) : readSrc fc dstPan r = .error .invalidAddressing := by
  rw [readSrc, hm]

/-- Step 3 without an auxiliary header. -/
theorem readAux_absent {variant : Variant} {fc : BitVec 16} (r : Reader)
    (h : variant = .baseline ∨ fcSecurityEnabled fc = false) : readAux variant fc r = .ok (none, r) := by
  obtain rfl | h := h
  · rfl
  · cases variant
    · rfl
    · simp only [readAux, h]

/-- The auxiliary header at an offset. -/
def auxAt (buf : Octets) (n : Nat) : AuxHeader :=
  let secControl : Byte := BitVec.ofNat 8 (leValue ((buf.drop n).take 1))
  { secControl
    frameCounter := BitVec.ofNat 32 (leValue ((buf.drop (n + 1)).take 4))
    keyId := (buf.drop (n + 5)).take (keyIdLength (keyIdMode secControl)) }

/-- The length of the auxiliary header at an offset. -/
def auxLength (buf : Octets) (n : Nat) : Nat := 5 + keyIdLength (keyIdMode (auxAt buf n).secControl)

/-- Step 3 at an offset, in EXTENDED with the security-enabled flag. -/
theorem readAux_at {buf : Octets} {fc : BitVec 16} {n : Nat} (hb : n ≤ buf.length)
    (hs : fcSecurityEnabled fc = true) :
    readAux .extended fc (Reader.at buf n) =
      if n + auxLength buf n ≤ buf.length then
        .ok (some (auxAt buf n), Reader.at buf (n + auxLength buf n))
      else .error .truncated := by
  simp only [readAux, hs]
  by_cases h1 : n + 1 ≤ buf.length
  · by_cases h5 : n + 1 + 4 ≤ buf.length
    · simp only [Reader.value_at buf hb, h1, if_true, bind, Except.bind, Reader.value_at buf h1, h5,
        Reader.take_at buf h5, auxLength, auxAt, ← Nat.add_assoc]
      generalize keyIdLength (keyIdMode (BitVec.ofNat 8 (leValue ((buf.drop n).take 1)))) = k
      by_cases hk : n + 1 + 4 + k ≤ buf.length
      · simp only [hk, if_true]
      · simp only [hk, if_false]
    · have hl : ¬ n + auxLength buf n ≤ buf.length := by unfold auxLength; omega
      simp only [Reader.value_at buf hb, h1, if_true, bind, Except.bind, Reader.value_at buf h1, h5,
        if_false, hl]
  · have hl : ¬ n + auxLength buf n ≤ buf.length := by unfold auxLength; omega
    simp only [Reader.value_at buf hb, h1, if_false, bind, Except.bind, hl]

/-- Step 4. -/
theorem payloadLength_eq (d : Byte) (h : Nat) :
    payloadLength d h = if h + 1 ≤ d.toNat then .ok (d.toNat - 1 - h) else .error .malformedLength := by
  simp only [payloadLength, Config.lenBias]
  by_cases hd : h + 1 ≤ d.toNat
  · have hn : ¬ ((d.toNat : Int) - ((1 : Nat) : Int) - (h : Int) < 0) := by omega
    have hv : ((d.toNat : Int) - ((1 : Nat) : Int) - (h : Int)).toNat = d.toNat - 1 - h := by omega
    simp only [hn, hd, if_true, if_false, hv]
  · have hn : ((d.toNat : Int) - ((1 : Nat) : Int) - (h : Int) < 0) := by omega
    simp only [hn, hd, if_true, if_false]

/-- The payload and trailer at an offset. -/
def trailerAt (buf : Octets) (n pl : Nat) : Trailer :=
  { payload := (buf.drop n).take pl
    fcs := BitVec.ofNat 16 (leValue ((buf.drop (n + pl)).take 2))
    lqi := BitVec.ofNat 8 (leValue ((buf.drop (n + pl + 2)).take 1))
    rssi := BitVec.ofNat 8 (leValue ((buf.drop (n + pl + 3)).take 1)) }

/-- Step 5 at an offset: one bounds test decides. -/
theorem readTrailer_at {buf : Octets} {n : Nat} (pl : Nat) (hb : n ≤ buf.length) :
    readTrailer pl (Reader.at buf n) =
      if n + pl + 4 ≤ buf.length then .ok (trailerAt buf n pl) else .error .truncated := by
  simp only [readTrailer, Reader.need_at buf hb, Config.fcsLen, ← Nat.add_assoc]
  by_cases h : n + pl + 4 ≤ buf.length
  · have h0 : n + pl ≤ buf.length := by omega
    have h2 : n + pl + 2 ≤ buf.length := by omega
    have h3 : n + pl + 2 + 1 ≤ buf.length := by omega
    simp only [h, if_true, bind, Except.bind, Reader.take_at buf hb, h0, Reader.value_at buf h0, h2,
      Reader.value_at buf h2, h3, Reader.value_at buf h3]
    rfl
  · simp only [h, if_false, bind, Except.bind]

/-! ## DECODE as a whole -/

/-- The frame control word of a buffer. -/
def fcOf (buf : Octets) : BitVec 16 := BitVec.ofNat 16 (leValue (buf.take 2))

/-- The sequence number of a buffer. -/
def seqOf (buf : Octets) : Byte := BitVec.ofNat 8 (leValue ((buf.drop 2).take 1))

/-- DECODE of a buffer that holds a header: steps 1 to 5 from offset 3. -/
theorem decodeMpdu_steps {variant : Variant} {buf : Octets} {d : Byte} (hb : 3 ≤ buf.length) :
    decodeMpdu variant buf d = (do
      let (dst, r) ← readDst (fcOf buf) (Reader.at buf 3)
      let (src, r) ← readSrc (fcOf buf) dst.pan r
      let (aux, r) ← readAux variant (fcOf buf) r
      let payloadLen ← payloadLength d r.cur
      let t ← readTrailer payloadLen r
      .ok (assembleFrame variant (fcOf buf) (seqOf buf) dst src aux r.cur t)) := by
  have h0 : (0 : Nat) ≤ buf.length := by omega
  have h2 : 0 + 2 ≤ buf.length := by omega
  have h3 : 0 + 3 ≤ buf.length := by omega
  have hr : ({ cur := 0, rest := buf } : Reader) = Reader.at buf 0 := rfl
  simp only [decodeMpdu, hr, Config.minHeader, Reader.need_at buf h0, h3, if_true, bind, Except.bind,
    Reader.value_at buf h0, h2, Reader.value_at buf h2]
  rfl

/-- What a step of DECODE that succeeds gives to the next one. -/
theorem exceptBind_eq_ok {α β : Type} {x : Except DecodeError α} {k : α → Except DecodeError β} {b : β} :
    (x >>= k) = .ok b ↔ ∃ a, x = .ok a ∧ k a = .ok b := by
  cases x with
  | error e => simp [bind, Except.bind]
  | ok a => simp [bind, Except.bind]

/-- A bounds test that is passed. -/
theorem ite_eq_ok {α : Type} {c : Prop} [Decidable c] {a b : α} {e : DecodeError} :
    (if c then (.ok a : Except DecodeError α) else .error e) = .ok b ↔ c ∧ a = b := by
  by_cases hc : c <;> simp [hc]

/-- Everything a DECODE that succeeds has found: no Reserved mode, the auxiliary header exactly when the
build and the flag ask for it, a declared length that covers the header, a buffer that holds the trailer,
and the Frame read at those offsets. -/
theorem decodeMpdu_ok {variant : Variant} {buf : Octets} {d : Byte} {f : Frame}
    (h : decodeMpdu variant buf d = .ok f) :
    3 ≤ buf.length ∧
    ∃ dm sm aux n, AddrMode.ofField (fcDstMode (fcOf buf)) = some dm ∧
      AddrMode.ofField (fcSrcMode (fcOf buf)) = some sm ∧
      ((aux = none ∧ n = headerLength dm sm (fcIntraPan (fcOf buf)) ∧
          (variant = .baseline ∨ fcSecurityEnabled (fcOf buf) = false)) ∨
        (variant = .extended ∧ fcSecurityEnabled (fcOf buf) = true ∧
          aux = some (auxAt buf (headerLength dm sm (fcIntraPan (fcOf buf)))) ∧
          n = headerLength dm sm (fcIntraPan (fcOf buf)) +
            auxLength buf (headerLength dm sm (fcIntraPan (fcOf buf))))) ∧
      n + 1 ≤ d.toNat ∧ n + (d.toNat - 1 - n) + 4 ≤ buf.length ∧
      f = assembleFrame variant (fcOf buf) (seqOf buf) (dstAt buf dm)
        (srcAt buf (3 + dstFieldsLen dm) sm (fcIntraPan (fcOf buf)) (dstAt buf dm).pan) aux n
        (trailerAt buf n (d.toNat - 1 - n)) := by
  by_cases hb : 3 ≤ buf.length
  · refine ⟨hb, ?_⟩
    rw [decodeMpdu_steps hb] at h
    obtain ⟨⟨dst, r1⟩, h1, h⟩ := exceptBind_eq_ok.mp h
    obtain ⟨⟨src, r2⟩, h2, h⟩ := exceptBind_eq_ok.mp h
    obtain ⟨⟨aux, r3⟩, h3, h⟩ := exceptBind_eq_ok.mp h
    obtain ⟨pl, h4, h⟩ := exceptBind_eq_ok.mp h
    obtain ⟨t, h5, h⟩ := exceptBind_eq_ok.mp h
    cases hd : AddrMode.ofField (fcDstMode (fcOf buf)) with
    | none => rw [readDst_reserved _ hd] at h1; cases h1
    | some dm =>
      rw [readDst_at hb hd] at h1
      obtain ⟨hb1, he⟩ := ite_eq_ok.mp h1
      cases he
      cases hs : AddrMode.ofField (fcSrcMode (fcOf buf)) with
      | none => rw [readSrc_reserved _ _ hs] at h2; cases h2
      | some sm =>
        rw [readSrc_at hb1 hs] at h2
        obtain ⟨hb2, he⟩ := ite_eq_ok.mp h2
        cases he
        have hn : 3 + dstFieldsLen dm + srcFieldsLen sm (fcIntraPan (fcOf buf)) =
          headerLength dm sm (fcIntraPan (fcOf buf)) := rfl
        rw [hn] at h3 hb2
        have tail : ∀ n, r3 = Reader.at buf n → n ≤ buf.length →
            n + 1 ≤ d.toNat ∧ n + (d.toNat - 1 - n) + 4 ≤ buf.length ∧
            f = assembleFrame variant (fcOf buf) (seqOf buf) (dstAt buf dm)
              (srcAt buf (3 + dstFieldsLen dm) sm (fcIntraPan (fcOf buf)) (dstAt buf dm).pan) aux n
              (trailerAt buf n (d.toNat - 1 - n)) := by
          rintro n rfl hnb
          rw [payloadLength_eq] at h4
          obtain ⟨hd1, rfl⟩ := ite_eq_ok.mp h4
          rw [Reader.at_cur, readTrailer_at _ hnb] at h5
          obtain ⟨hlen, rfl⟩ := ite_eq_ok.mp h5
          cases h
          exact ⟨hd1, hlen, rfl⟩
        refine ⟨dm, sm, aux, r3.cur, rfl, rfl, ?_⟩
        by_cases ha : variant = .baseline ∨ fcSecurityEnabled (fcOf buf) = false
        · rw [readAux_absent _ ha] at h3
          cases h3
          exact ⟨.inl ⟨rfl, rfl, ha⟩, tail _ rfl hb2⟩
        · rw [not_or, Bool.not_eq_false] at ha
          cases variant
          · exact absurd rfl ha.1
          · rw [readAux_at hb2 ha.2] at h3
            obtain ⟨hlen, he⟩ := ite_eq_ok.mp h3
            cases he
            exact ⟨.inr ⟨rfl, ha.2, rfl, rfl⟩, tail _ rfl hlen⟩
  · have hr : ({ cur := 0, rest := buf } : Reader) = Reader.at buf 0 := rfl
    have h3 : ¬ 0 + 3 ≤ buf.length := by omega
    simp only [decodeMpdu, hr, Config.minHeader, Reader.need_at buf (Nat.zero_le _), h3, if_false, bind,
      Except.bind] at h
    cases h

/-! ## Lengths of what ENCODE writes -/

@[simp] theorem dstFields_length (mode : AddrMode) (pan : PanId) (addr : AddrWire) :
    (dstFields mode pan addr).length = dstFieldsLen mode := by
  cases mode <;> simp [dstFields, dstFieldsLen]

@[simp] theorem srcFields_length (mode : AddrMode) (intraPan : Bool) (pan : PanId) (addr : AddrWire) :
    (srcFields mode intraPan pan addr).length = srcFieldsLen mode intraPan := by
  cases mode <;> cases intraPan <;> simp [srcFields, srcFieldsLen]

@[simp] theorem encodeHeader_length (dsn : BitVec 8) (r : EncodeRequest) :
    (encodeHeader dsn r).length =
      headerLength (AddrMode.norm r.dstMode) (AddrMode.norm r.srcMode) r.intraPan := by
  simp [encodeHeader, headerLength]
  omega

end Machine
end Sys2Proof
end

