-- ==== Sys2Proof/Laws/Decode.lean ====
section
/-!
SUPPORT. What each operand reader of Decode.lean does: on the octets of an operand and whatever follows
them it gives the operand and the rest, and where it succeeds it has read the operand's octets.
-/

namespace Sys2Proof

/-! ## Command bytes -/

/-- The byte of a row selects the row. -/
theorem Opcode.ofByte_toByte (op : Opcode) : Opcode.ofByte op.toByte = some op := by
  cases op with
  | bind i v r => cases i <;> cases v <;> cases r <;> rfl
  | _ => rfl

/-- A byte that selects a row is that row's byte. -/
theorem Opcode.toByte_ofByte {cmd : Byte} {op : Opcode} (h : Opcode.ofByte cmd = some op) :
    op.toByte = cmd := by
  have hall : ∀ cmd : Byte, (Opcode.ofByte cmd).all (fun op => op.toByte == cmd) = true := by decide
  have hc := hall cmd
  rw [h] at hc
  simpa using hc

/-! ## Reading what was written -/

theorem readOctets_append {n : Nat} {o r : Octets} (h : o.length = n) :
    readOctets n (o ++ r) = .ok (o, r) := by
  subst h
  induction o with
  | nil => rfl
  | cons b o ih => simp [readOctets, ih, bind, Except.bind]

/-- When `readOctets` succeeds and with what: the first `n` octets, if there are so many. -/
theorem readOctets_eq (n : Nat) (bs : Octets) :
    readOctets n bs = if n ≤ bs.length then .ok (bs.take n, bs.drop n) else .error .operandsMissing := by
  induction n generalizing bs with
  | zero => simp [readOctets]
  | succ n ih =>
    cases bs with
    | nil => simp [readOctets]
    | cons b bs => by_cases h : n ≤ bs.length <;> simp [readOctets, ih, h, bind, Except.bind]

theorem readValue_append {n : Nat} {o r : Octets} (h : o.length = n) :
    readValue n (o ++ r) = .ok (leValue o, r) := by
  simp [readValue, readOctets_append h, bind, Except.bind]

theorem read8_append (v : BitVec 8) (r : Octets) : read8 (octetsOf 1 v ++ r) = .ok (v, r) := by
  simp [read8, readValue_append (octetsOf_length 1 v), bind, Except.bind, ofNat_leValue_octetsOf]

theorem read16_append (v : BitVec 16) (r : Octets) : read16 (octetsOf 2 v ++ r) = .ok (v, r) := by
  simp [read16, readValue_append (octetsOf_length 2 v), bind, Except.bind, ofNat_leValue_octetsOf]

theorem read32_append (v : BitVec 32) (r : Octets) : read32 (octetsOf 4 v ++ r) = .ok (v, r) := by
  simp [read32, readValue_append (octetsOf_length 4 v), bind, Except.bind, ofNat_leValue_octetsOf]

theorem read64_append (v : BitVec 64) (r : Octets) : read64 (octetsOf 8 v ++ r) = .ok (v, r) := by
  simp [read64, readValue_append (octetsOf_length 8 v), bind, Except.bind, ofNat_leValue_octetsOf]

theorem read4_append (v : BitVec 4) (r : Octets) : read4 (octetsOf 1 v ++ r) = .ok (v, r) := by
  have hv := v.isLt
  have h : leValue (octetsOf 1 v) = v.toNat := by
    rw [octetsOf, leValue_leOctets]
    exact Nat.mod_eq_of_lt (by omega)
  simp [read4, readValue_append (octetsOf_length 1 v), bind, Except.bind, h, hv]

theorem read1_append (b : Bool) (r : Octets) : read1 (bitOctet b ++ r) = .ok (b, r) := by
  cases b <;> rfl

theorem readKind_append (k : TxKind) (r : Octets) : readKind (kindOctet k ++ r) = .ok (k, r) := by
  cases k <;> rfl

/-- The record of an encode request whose payload length fits its 8 bits. -/
theorem readRequest_append (q : EncodeRequest) (r : Octets) (h : q.wellFormed = true) :
    readRequest (encodeRequest q ++ r) = .ok (q, r) := by
  have hl : q.payload.length ≤ 255 := of_decide_eq_true h
  have hv : leValue (leOctets 1 q.payload.length) = q.payload.length := by
    rw [leValue_leOctets]
    exact Nat.mod_eq_of_lt (by omega)
  simp only [encodeRequest, List.append_assoc, readRequest, bind, Except.bind, read8_append, read16_append,
    read64_append, read4_append, read1_append, readValue_append (leOctets_length 1 _), hv,
    readOctets_append rfl]

/-- A receive buffer within its capacity. -/
theorem readRxBuf_append (b : Octets) (d : Byte) (r : Octets) (h : rxBufWellFormed b = true) :
    readRxBuf (encodeRxBuf b d ++ r) = .ok ((b, d), r) := by
  have hl : b.length ≤ 258 := of_decide_eq_true h
  have hv : leValue (leOctets 2 b.length) = b.length := by
    rw [leValue_leOctets]
    exact Nat.mod_eq_of_lt (by omega)
  simp only [encodeRxBuf, List.append_assoc, readRxBuf, bind, Except.bind,
    readValue_append (leOctets_length 2 _), hv, Config.rxBufSize, hl, if_true, read8_append,
    readOctets_append rfl]

/-! ## What a reader that succeeds has read -/

theorem commandBind_eq_ok {α β : Type} {x : Except CommandError α} {k : α → Except CommandError β} {b : β} :
    (x >>= k) = .ok b ↔ ∃ a, x = .ok a ∧ k a = .ok b := by
  cases x with
  | error e => simp [bind, Except.bind]
  | ok a => simp [bind, Except.bind]

theorem readOctets_ok {n : Nat} {bs o r : Octets} (h : readOctets n bs = .ok (o, r)) :
    o.length = n ∧ o ++ r = bs := by
  rw [readOctets_eq] at h
  split at h <;> cases h
  simp
  omega

theorem readValue_ok {n v : Nat} {bs r : Octets} (h : readValue n bs = .ok (v, r)) :
    leOctets n v ++ r = bs ∧ v < 256 ^ n := by
  obtain ⟨⟨o, _⟩, h1, h2⟩ := commandBind_eq_ok.mp h
  cases h2
  obtain ⟨rfl, ho⟩ := readOctets_ok h1
  exact ⟨by rw [leOctets_leValue]; exact ho, leValue_lt o⟩

theorem read8_ok {bs r : Octets} {v : BitVec 8} (h : read8 bs = .ok (v, r)) :
    octetsOf 1 v ++ r = bs := by
  obtain ⟨⟨o, _⟩, h1, h2⟩ := commandBind_eq_ok.mp h
  cases h2
  obtain ⟨ho, hl⟩ := readValue_ok h1
  rw [octetsOf, BitVec.toNat_ofNat, Nat.mod_eq_of_lt (show o < 2 ^ 8 from hl)]
  exact ho

theorem read16_ok {bs r : Octets} {v : BitVec 16} (h : read16 bs = .ok (v, r)) :
    octetsOf 2 v ++ r = bs := by
  obtain ⟨⟨o, _⟩, h1, h2⟩ := commandBind_eq_ok.mp h
  cases h2
  obtain ⟨ho, hl⟩ := readValue_ok h1
  rw [octetsOf, BitVec.toNat_ofNat, Nat.mod_eq_of_lt (show o < 2 ^ 16 from hl)]
  exact ho

theorem read32_ok {bs r : Octets} {v : BitVec 32} (h : read32 bs = .ok (v, r)) :
    octetsOf 4 v ++ r = bs := by
  obtain ⟨⟨o, _⟩, h1, h2⟩ := commandBind_eq_ok.mp h
  cases h2
  obtain ⟨ho, hl⟩ := readValue_ok h1
  rw [octetsOf, BitVec.toNat_ofNat, Nat.mod_eq_of_lt (show o < 2 ^ 32 from hl)]
  exact ho

theorem read64_ok {bs r : Octets} {v : BitVec 64} (h : read64 bs = .ok (v, r)) :
    octetsOf 8 v ++ r = bs := by
  obtain ⟨⟨o, _⟩, h1, h2⟩ := commandBind_eq_ok.mp h
  cases h2
  obtain ⟨ho, hl⟩ := readValue_ok h1
  rw [octetsOf, BitVec.toNat_ofNat, Nat.mod_eq_of_lt (show o < 2 ^ 64 from hl)]
  exact ho

theorem read4_ok {bs r : Octets} {v : BitVec 4} (h : read4 bs = .ok (v, r)) :
    octetsOf 1 v ++ r = bs := by
  obtain ⟨⟨o, _⟩, h1, h2⟩ := commandBind_eq_ok.mp h
  dsimp only at h2
  split at h2 <;> cases h2
  rename_i hlt
  rw [octetsOf, BitVec.toNat_ofNat, Nat.mod_eq_of_lt (show o < 2 ^ 4 from hlt)]
  exact (readValue_ok h1).1

theorem read1_ok {bs r : Octets} {b : Bool} (h : read1 bs = .ok (b, r)) : bitOctet b ++ r = bs := by
  obtain ⟨⟨o, _⟩, h1, h2⟩ := commandBind_eq_ok.mp h
  obtain ⟨ho, -⟩ := readValue_ok h1
  dsimp only at h2
  split at h2 <;> cases h2 <;> exact ho

theorem readKind_ok {bs r : Octets} {k : TxKind} (h : readKind bs = .ok (k, r)) :
    kindOctet k ++ r = bs := by
  obtain ⟨⟨o, _⟩, h1, h2⟩ := commandBind_eq_ok.mp h
  have hb := read1_ok h1
  cases h2
  cases o <;> exact hb

theorem readRequest_ok {bs r : Octets} {q : EncodeRequest} (h : readRequest bs = .ok (q, r)) :
    q.wellFormed = true ∧ encodeRequest q ++ r = bs := by
  obtain ⟨⟨x1, _⟩, h1, h⟩ := commandBind_eq_ok.mp h
  obtain ⟨⟨x2, _⟩, h2, h⟩ := commandBind_eq_ok.mp h
  obtain ⟨⟨x3, _⟩, h3, h⟩ := commandBind_eq_ok.mp h
  obtain ⟨⟨x4, _⟩, h4, h⟩ := commandBind_eq_ok.mp h
  obtain ⟨⟨x5, _⟩, h5, h⟩ := commandBind_eq_ok.mp h
  obtain ⟨⟨x6, _⟩, h6, h⟩ := commandBind_eq_ok.mp h
  obtain ⟨⟨x7, _⟩, h7, h⟩ := commandBind_eq_ok.mp h
  obtain ⟨⟨x8, _⟩, h8, h⟩ := commandBind_eq_ok.mp h
  obtain ⟨⟨x9, _⟩, h9, h⟩ := commandBind_eq_ok.mp h
  obtain ⟨⟨x10, _⟩, h10, h⟩ := commandBind_eq_ok.mp h
  obtain ⟨⟨x11, _⟩, h11, h⟩ := commandBind_eq_ok.mp h
  cases h
  obtain ⟨e10, hl⟩ := readValue_ok h10
  obtain ⟨hx, e11⟩ := readOctets_ok h11
  have hx' : x11.length = x10 := hx
  have hl' : x10 < 256 := hl
  refine ⟨decide_eq_true (show x11.length ≤ 255 by omega), ?_⟩
  simp only [encodeRequest, List.append_assoc, hx, e11, e10, read1_ok h9, read4_ok h8, read64_ok h7,
    read16_ok h6, read8_ok h5, read64_ok h4, read16_ok h3, read8_ok h2, read8_ok h1]

theorem readRxBuf_ok {bs r : Octets} {b : Octets × Byte} (h : readRxBuf bs = .ok (b, r)) :
    rxBufWellFormed b.1 = true ∧ encodeRxBuf b.1 b.2 ++ r = bs := by
  obtain ⟨⟨x1, _⟩, h1, h⟩ := commandBind_eq_ok.mp h
  dsimp only at h
  split at h
  · rename_i hmax
    obtain ⟨⟨x2, _⟩, h2, h⟩ := commandBind_eq_ok.mp h
    obtain ⟨⟨x3, _⟩, h3, h⟩ := commandBind_eq_ok.mp h
    cases h
    obtain ⟨hl, e3⟩ := readOctets_ok h3
    dsimp only at hl e3
    refine ⟨by rw [rxBufWellFormed, hl]; exact decide_eq_true hmax, ?_⟩
    simp only [encodeRxBuf, List.append_assoc, hl, e3, read8_ok h2, (readValue_ok h1).1]
  · cases h

end Sys2Proof
end

