-- ==== Sys2Proof/Laws/PerInstr.lean ====
section
/-!
SUPPORT. Two statements about every command as syntax, one lemma per constructor: its encoding opens with
a legal command byte that selects it (30_encoding.md R97), and fits the longest command.
-/

namespace Sys2Proof
namespace Laws

/-- The encoding opens with the command byte of the command's row, and that byte selects the row. -/
def CommandByte.Statement (i : Instr) : Prop :=
  (encode i).head? = some i.opcode.toByte ∧ Opcode.ofByte i.opcode.toByte = some i.opcode

/-- A well-formed command is no longer than the longest one. -/
def CommandLength.Statement (i : Instr) : Prop :=
  i.wellFormed = true → (encode i).length ≤ longestCommand

theorem CommandByte.dataReq (r : EncodeRequest) :
    CommandByte.Statement (.dataReq r) := ⟨rfl, Opcode.ofByte_toByte _⟩
theorem CommandByte.ccaReq :
    CommandByte.Statement .ccaReq := ⟨rfl, Opcode.ofByte_toByte _⟩
theorem CommandByte.edReq :
    CommandByte.Statement .edReq := ⟨rfl, Opcode.ofByte_toByte _⟩
theorem CommandByte.getReq (attr : Byte) :
    CommandByte.Statement (.getReq attr) := ⟨rfl, Opcode.ofByte_toByte _⟩
theorem CommandByte.setTrxReq (target : Status) :
    CommandByte.Statement (.setTrxReq target) := ⟨rfl, Opcode.ofByte_toByte _⟩
theorem CommandByte.setReq (attr : Byte) (value : BitVec 32) :
    CommandByte.Statement (.setReq attr value) := ⟨rfl, Opcode.ofByte_toByte _⟩
theorem CommandByte.dataCnf (status : Status) :
    CommandByte.Statement (.dataCnf status) := ⟨rfl, Opcode.ofByte_toByte _⟩
theorem CommandByte.dataInd (rxbuf : Octets) (declaredLength : Byte) :
    CommandByte.Statement (.dataInd rxbuf declaredLength) := ⟨rfl, Opcode.ofByte_toByte _⟩
theorem CommandByte.ccaCnf (status : Status) :
    CommandByte.Statement (.ccaCnf status) := ⟨rfl, Opcode.ofByte_toByte _⟩
theorem CommandByte.edCnf (status : Status) (energyLevel : Byte) :
    CommandByte.Statement (.edCnf status energyLevel) := ⟨rfl, Opcode.ofByte_toByte _⟩
theorem CommandByte.getCnf (status : Status) (attr : Byte) (value : BitVec 32) :
    CommandByte.Statement (.getCnf status attr value) := ⟨rfl, Opcode.ofByte_toByte _⟩
theorem CommandByte.setTrxCnf (status : Status) :
    CommandByte.Statement (.setTrxCnf status) := ⟨rfl, Opcode.ofByte_toByte _⟩
theorem CommandByte.setCnf (status : Status) (attr : Byte) :
    CommandByte.Statement (.setCnf status attr) := ⟨rfl, Opcode.ofByte_toByte _⟩
theorem CommandByte.bindU (svc : Svc) (role : Role) (handler : Handler) :
    CommandByte.Statement (.bindU svc role handler) := ⟨rfl, Opcode.ofByte_toByte _⟩
theorem CommandByte.bindL (svc : Svc) (role : Role) (handler : Handler) :
    CommandByte.Statement (.bindL svc role handler) := ⟨rfl, Opcode.ofByte_toByte _⟩
theorem CommandByte.decodeFrame (rxbuf : Octets) (declaredLength : Byte) :
    CommandByte.Statement (.decodeFrame rxbuf declaredLength) := ⟨rfl, Opcode.ofByte_toByte _⟩
theorem CommandByte.encodeFrame (r : EncodeRequest) :
    CommandByte.Statement (.encodeFrame r) := ⟨rfl, Opcode.ofByte_toByte _⟩
theorem CommandByte.ptqAdd (handle : Byte) (kind : TxKind) (ackRequired : Bool) :
    CommandByte.Statement (.ptqAdd handle kind ackRequired) := ⟨rfl, Opcode.ofByte_toByte _⟩
theorem CommandByte.ptqRemove (handle : Byte) :
    CommandByte.Statement (.ptqRemove handle) := ⟨rfl, Opcode.ofByte_toByte _⟩

/-- The length of an encode request record: 26 octets and the payload. -/
theorem encodeRequest_length (r : EncodeRequest) : (encodeRequest r).length = 26 + r.payload.length := by
  simp [encodeRequest, bitOctet]
  omega

/-- The length of a receive buffer operand: 3 octets and the buffer. -/
theorem encodeRxBuf_length (rxbuf : Octets) (declaredLength : Byte) :
    (encodeRxBuf rxbuf declaredLength).length = 3 + rxbuf.length := by
  simp [encodeRxBuf]
  omega

theorem CommandLength.dataReq (r : EncodeRequest) :
    CommandLength.Statement (.dataReq r) := by
  intro h
  have hl : r.payload.length ≤ 255 := of_decide_eq_true h
  simp only [encode, encodeOperands, List.length_cons, encodeRequest_length, longestCommand]
  omega

theorem CommandLength.ccaReq :
    CommandLength.Statement .ccaReq := by
  intro _
  simp [encode, encodeOperands, longestCommand]

theorem CommandLength.edReq :
    CommandLength.Statement .edReq := by
  intro _
  simp [encode, encodeOperands, longestCommand]

theorem CommandLength.getReq (attr : Byte) :
    CommandLength.Statement (.getReq attr) := by
  intro _
  simp [encode, encodeOperands, longestCommand]

theorem CommandLength.setTrxReq (target : Status) :
    CommandLength.Statement (.setTrxReq target) := by
  intro _
  simp [encode, encodeOperands, longestCommand]

theorem CommandLength.setReq (attr : Byte) (value : BitVec 32) :
    CommandLength.Statement (.setReq attr value) := by
  intro _
  simp [encode, encodeOperands, longestCommand]

theorem CommandLength.dataCnf (status : Status) :
    CommandLength.Statement (.dataCnf status) := by
  intro _
  simp [encode, encodeOperands, longestCommand]

theorem CommandLength.dataInd (rxbuf : Octets) (declaredLength : Byte) :
    CommandLength.Statement (.dataInd rxbuf declaredLength) := by
  intro h
  have hl : rxbuf.length ≤ 258 := of_decide_eq_true h
  simp only [encode, encodeOperands, List.length_cons, encodeRxBuf_length, longestCommand]
  omega

theorem CommandLength.ccaCnf (status : Status) :
    CommandLength.Statement (.ccaCnf status) := by
  intro _
  simp [encode, encodeOperands, longestCommand]

theorem CommandLength.edCnf (status : Status) (energyLevel : Byte) :
    CommandLength.Statement (.edCnf status energyLevel) := by
  intro _
  simp [encode, encodeOperands, longestCommand]

theorem CommandLength.getCnf (status : Status) (attr : Byte) (value : BitVec 32) :
    CommandLength.Statement (.getCnf status attr value) := by
  intro _
  simp [encode, encodeOperands, longestCommand]

theorem CommandLength.setTrxCnf (status : Status) :
    CommandLength.Statement (.setTrxCnf status) := by
  intro _
  simp [encode, encodeOperands, longestCommand]

theorem CommandLength.setCnf (status : Status) (attr : Byte) :
    CommandLength.Statement (.setCnf status attr) := by
  intro _
  simp [encode, encodeOperands, longestCommand]

theorem CommandLength.bindU (svc : Svc) (role : Role) (handler : Handler) :
    CommandLength.Statement (.bindU svc role handler) := by
  intro _
  simp [encode, encodeOperands, longestCommand]

theorem CommandLength.bindL (svc : Svc) (role : Role) (handler : Handler) :
    CommandLength.Statement (.bindL svc role handler) := by
  intro _
  simp [encode, encodeOperands, longestCommand]

theorem CommandLength.decodeFrame (rxbuf : Octets) (declaredLength : Byte) :
    CommandLength.Statement (.decodeFrame rxbuf declaredLength) := by
  intro h
  have hl : rxbuf.length ≤ 258 := of_decide_eq_true h
  simp only [encode, encodeOperands, List.length_cons, encodeRxBuf_length, longestCommand]
  omega

theorem CommandLength.encodeFrame (r : EncodeRequest) :
    CommandLength.Statement (.encodeFrame r) := by
  intro h
  have hl : r.payload.length ≤ 255 := of_decide_eq_true h
  simp only [encode, encodeOperands, List.length_cons, encodeRequest_length, longestCommand]
  omega

theorem CommandLength.ptqAdd (handle : Byte) (kind : TxKind) (ackRequired : Bool) :
    CommandLength.Statement (.ptqAdd handle kind ackRequired) := by
  intro _
  simp [encode, encodeOperands, longestCommand, bitOctet, kindOctet]
  cases kind <;> simp

theorem CommandLength.ptqRemove (handle : Byte) :
    CommandLength.Statement (.ptqRemove handle) := by
  intro _
  simp [encode, encodeOperands, longestCommand]

end Laws
end Sys2Proof
end

