-- ==== Sys2Proof/Tests/Slice0.lean ====
section
/-!
SUPPORT. The model's own tests. Expected results are from spec/95_test_vectors.md (vector names are given),
from the worked examples of the rules, or worked out by hand from the encoding tables; and, for every
statement with hypotheses, a witness that meets them.
-/

open Sys2Proof Sys2Proof.Machine

namespace Sys2Proof.Tests

/-! ## Helpers -/

/-- The next state, if there is one. -/
def nextState (r : Result) : Option State :=
  match r with
  | .next s => some s
  | .fault _ => none
  | .refused _ => none

/-- The events of the next state. -/
def eventsOf (r : Result) : Option (List Event) := (nextState r).map (·.events)

/-- The registers of the next state. -/
def registersOf (r : Result) : Option Registers := (nextState r).map State.registers

def triple1 : Triple := { request := 1#32, confirm := 1#32, indication := 1#32 }

/-- Every slot bound to handler 1. -/
def registry1 : Registry :=
  { data := triple1, cca := triple1, ed := triple1, get := triple1, setTrx := triple1, set := triple1 }

/-- Reset, in a BASELINE build without MANUAL_FCS. -/
def base : State := { State.reset with build := { variant := .baseline, manualFcs := false } }

/-- `base` followed by BINDALL. -/
def bound : State := { base with upper := registry1, lower := registry1 }

/-- `bound` in a transceiver state. -/
def boundIn (t : TrxState) : State := { bound with trxState := t }

/-- `s` with a driver whose next handler calls give these replies. -/
def withReplies (s : State) (rs : List Reply) : State := { s with env := { s.env with replies := rs } }

/-- `s` with what the outside presents. -/
def withInbox (s : State) (inputs : List Input) : State := { s with env := { s.env with inbox := inputs } }

/-- `s` with the time source showing `t` next. -/
def withTime (s : State) (t : TimeStamp) : State := { s with env := { s.env with timeInput := [t] } }

/-- A handler that returns and issues nothing. -/
def silent : Reply := { commands := [], returns := true }

def outCall (args : OutArgs) : Event := .out { handler := 1#32, args := args }
def done : Event := .completed .none

/-- A request with no addresses. -/
def bare (opts : BitVec 4) (payload : Octets) : EncodeRequest :=
  { handle := 0#8, dstMode := 0#8, dstPan := 0#16, dstAddr := 0#64, srcMode := 0#8, srcPan := 0#16,
    srcAddr := 0#64, txOptions := opts, intraPan := false, payload := payload }

/-- Request A of program P1. -/
def requestA : EncodeRequest :=
  { handle := 0x42#8, dstMode := 2#8, dstPan := 0x1234#16, dstAddr := 0xBEEF#64, srcMode := 2#8,
    srcPan := 0x1234#16, srcAddr := 0xCAFE#64, txOptions := 0b0001#4, intraPan := true,
    payload := [0xDE#8, 0xAD#8] }

/-- The PPDU of request A for the sequence number 0. -/
def ppduA : Octets :=
  [0x00#8, 0x00#8, 0x00#8, 0x00#8, 0xA7#8, 0x0B#8, 0x61#8, 0x88#8, 0x00#8, 0x34#8, 0x12#8, 0xEF#8, 0xBE#8,
   0xFE#8, 0xCA#8, 0xDE#8, 0xAD#8]

/-- The receive buffer of L1-2. -/
def bufferL12 : Octets :=
  [0x41#8, 0x88#8, 0x09#8, 0x34#8, 0x12#8, 0xEF#8, 0xBE#8, 0xFE#8, 0xCA#8, 0xDE#8, 0xAD#8, 0x00#8, 0x00#8,
   0x50#8, 0xB0#8]

def entry (h : Byte) (k : TxKind) (a : Bool) (t : TimeStamp) : PtqEntry :=
  { handle := h, kind := k, ackRequired := a, timestamp := t }

/-! ## WellFormed refuses ill-formed terms -/

set_option maxRecDepth 4000 in
theorem wellFormed_dataReq_payload256 :
    (Instr.dataReq (bare 0#4 (List.replicate 256 0#8))).wellFormed = false := by decide
set_option maxRecDepth 4000 in
theorem wellFormed_encodeFrame_payload256 :
    (Instr.encodeFrame (bare 0#4 (List.replicate 256 0#8))).wellFormed = false := by decide
set_option maxRecDepth 4000 in
theorem wellFormed_dataInd_buffer259 :
    (Instr.dataInd (List.replicate 259 0#8) 0#8).wellFormed = false := by decide
set_option maxRecDepth 4000 in
theorem wellFormed_decodeFrame_buffer259 :
    (Instr.decodeFrame (List.replicate 259 0#8) 0#8).wellFormed = false := by decide

/-! ## Decoding: words written out from R95 to R97 and the order of operands of log 1 -/

theorem decode_dataReq :
    decode [0x00#8, 0x42#8, 0x02#8, 0x34#8, 0x12#8, 0xEF#8, 0xBE#8, 0#8, 0#8, 0#8, 0#8, 0#8, 0#8, 0x02#8,
      0x34#8, 0x12#8, 0xFE#8, 0xCA#8, 0#8, 0#8, 0#8, 0#8, 0#8, 0#8, 0x01#8, 0x01#8, 0x02#8, 0xDE#8, 0xAD#8] =
      .ok (.dataReq requestA, []) := by decide
theorem decode_ccaReq : decode [0b00000100#8] = .ok (.ccaReq, []) := by decide
theorem decode_edReq : decode [0b00001000#8] = .ok (.edReq, []) := by decide
theorem decode_getReq : decode [0b00001100#8, 0x02#8] = .ok (.getReq 0x02#8, []) := by decide
theorem decode_setTrxReq : decode [0b00010000#8, 0x09#8] = .ok (.setTrxReq Status.txOn, []) := by decide
theorem decode_setReq :
    decode [0b00010100#8, 0x01#8, 0x00#8, 0xF8#8, 0xFF#8, 0x07#8] =
      .ok (.setReq 0x01#8 0x07FFF800#32, []) := by decide
theorem decode_dataCnf : decode [0b10000001#8, 0x07#8] = .ok (.dataCnf Status.success, []) := by decide
theorem decode_dataInd :
    decode [0b10000010#8, 0x02#8, 0x00#8, 0x06#8, 0x01#8, 0x00#8] =
      .ok (.dataInd [0x01#8, 0x00#8] 6#8, []) := by decide
theorem decode_ccaCnf : decode [0b10000101#8, 0x04#8] = .ok (.ccaCnf Status.idle, []) := by decide
theorem decode_edCnf :
    decode [0b10001001#8, 0x07#8, 0x3C#8] = .ok (.edCnf Status.success 0x3C#8, []) := by decide
theorem decode_getCnf :
    decode [0b10001101#8, 0x07#8, 0x02#8, 0xBF#8, 0x00#8, 0x00#8, 0x00#8] =
      .ok (.getCnf Status.success 0x02#8 0xBF#32, []) := by decide
theorem decode_setTrxCnf : decode [0b10010001#8, 0x06#8] = .ok (.setTrxCnf Status.rxOn, []) := by decide
theorem decode_setCnf :
    decode [0b10010101#8, 0x07#8, 0x01#8] = .ok (.setCnf Status.success 0x01#8, []) := by decide
/-- 0x2C is legal: `BIND U Get Request` (C5). -/
theorem decode_bindU :
    decode [0b00101100#8, 0x01#8, 0x10#8, 0x00#8, 0x00#8] = .ok (.bindU .get .request 0x1001#32, []) := by
  decide
/-- 0xB1 is `BIND L SetTrx Confirm` (C3). -/
theorem decode_bindL :
    decode [0b10110001#8, 0x02#8, 0x00#8, 0x00#8, 0x00#8] = .ok (.bindL .setTrx .confirm 2#32, []) := by
  decide
theorem decode_decodeFrame :
    decode [0b01000000#8, 0x01#8, 0x00#8, 0xFF#8, 0x2A#8] = .ok (.decodeFrame [0x2A#8] 0xFF#8, []) := by
  decide
theorem decode_encodeFrame :
    decode ([0b01000001#8] ++ List.replicate 23 0#8 ++ [0x0F#8, 0x00#8, 0x00#8]) =
      .ok (.encodeFrame (bare 0xF#4 []), []) := by decide
theorem decode_ptqAdd :
    decode [0b01000010#8, 0x06#8, 0x01#8, 0x00#8] = .ok (.ptqAdd 6#8 .command false, []) := by decide
theorem decode_ptqRemove : decode [0b01000011#8, 0x06#8] = .ok (.ptqRemove 6#8, []) := by decide

/-- The illegal bytes of C5. -/
theorem decode_illegal_bytes :
    ∀ b ∈ [0x01#8, 0x80#8, 0x86#8, 0x18#8, 0x03#8, 0x2F#8, 0x38#8, 0x44#8, 0xC0#8, 0x60#8, 0xFF#8],
      decode [b] = .error (.illegalCommand b) := by decide
/-- A 1-bit operand with a higher bit set, a 4-bit operand of 16, a `bufLen` of 259, and missing operands
(log 15). -/
theorem decode_refuses_malformed :
    decode [0x42#8, 0x05#8, 0x02#8, 0x00#8] = .error .operandOutOfRange ∧
    decode ([0x41#8] ++ List.replicate 23 0#8 ++ [0x10#8, 0x00#8, 0x00#8]) = .error .operandOutOfRange ∧
    decode [0x40#8, 0x03#8, 0x01#8, 0x00#8] = .error .operandOutOfRange ∧
    decode [0x14#8, 0x02#8, 0xBF#8] = .error .operandsMissing ∧
    decode [] = .error .noCommandByte := by decide

/-! ## Steps of each command -/

/-- D1. -/
theorem test_setTrxReq_forwarded :
    eventsOf (exec (.setTrxReq Status.rxOn) bound) = some [outCall (.setTrxRequest Status.rxOn), done] := by
  decide
/-- D3. -/
theorem test_setTrxReq_rejected :
    eventsOf (exec (.setTrxReq Status.busyRx) (boundIn .rxOn)) =
      some [outCall (.setTrxConfirm Status.busyRx), done] := by decide
/-- D6. -/
theorem test_setTrxCnf_forceOff :
    (nextState (exec (.setTrxCnf Status.forceTrxOff) (boundIn .rxOn))).map (·.trxState) =
      some .forceTrxOff := by decide
/-- D7. -/
theorem test_setTrxCnf_success :
    (nextState (exec (.setTrxCnf Status.success) (boundIn .rxOn))).map (fun s => (s.trxState, s.events)) =
      some (.rxOn, [outCall (.setTrxConfirm Status.success), done]) := by decide

/-- P1, first command. -/
theorem test_dataReq_transmits :
    (nextState (exec (.dataReq requestA)
      (withTime (withReplies bound [confirmsTrx Status.txOn]) 0x100#32))).map
        (fun s => (s.registers, s.events)) =
      some ({ bound.registers with
              trxState := .txOn, dsn := 1#8, dataStatus := Status.txOn, txHandle := 0x42#8,
              ptq := [entry 0x42#8 .data true 0x100#32] },
        [outCall (.setTrxRequest Status.txOn), outCall (.setTrxConfirm Status.txOn), done,
         outCall (.dataRequest ppduA 17#9), done]) := by decide
/-- E3: the state is tested before the length. -/
theorem test_dataReq_state_before_length :
    (nextState (exec (.dataReq (bare 0#4 (List.replicate 200 0#8))) (boundIn .rxOn))).map
        (fun s => (s.dataStatus, s.events)) =
      some (Status.rxOn, [outCall (.dataConfirm Status.rxOn), done]) := by decide
/-- P1, second command. -/
theorem test_dataCnf_resolves :
    (nextState (exec (.dataCnf Status.success)
      { withReplies (boundIn .txOn) [confirmsTrx Status.rxOn] with
        txHandle := 0x42#8, ptq := [entry 0x41#8 .data false 0#32, entry 0x42#8 .data true 0x100#32] })).map
        (fun s => (s.trxState, s.dataStatus, s.ptq, s.events)) =
      some (.rxOn, Status.success, [entry 0x41#8 .data false 0#32],
        [outCall (.setTrxRequest Status.rxOn), outCall (.setTrxConfirm Status.rxOn), done,
         outCall (.dataConfirm Status.success), done]) := by decide
/-- The worked example of R182. -/
theorem test_dataInd_dispatches :
    eventsOf (exec (.dataInd bufferL12 12#8) bound) =
      some [outCall (.dataIndication
        { srcMode := .short16, srcPan := 0x1234#16, srcAddr := 0xCAFE#64, dstMode := .short16,
          dstPan := 0x1234#16, dstAddr := 0xBEEF#64, payloadLen := 2#8, payload := [0xDE#8, 0xAD#8],
          linkQuality := 0x50#8, securityUsed := false }), .completed .ok] := by decide
/-- P2, the last indication. -/
theorem test_dataInd_malformed :
    eventsOf (exec (.dataInd [0x01#8, 0x08#8, 0x07#8, 0x34#8, 0x12#8, 0xEF#8, 0xBE#8, 0#8, 0#8, 0#8, 0#8]
      7#8) bound) = some [Event.completed (.decodeError .malformedLength)] := by decide
/-- L1-4. -/
theorem test_ccaReq_gated :
    ∀ t ∈ [TrxState.trxOff, .txOn, .busyRx, .busyTx, .forceTrxOff],
      eventsOf (exec .ccaReq (boundIn t)) = some [outCall (.ccaConfirm t.code), done] := by decide
theorem test_ccaReq_forwarded :
    eventsOf (exec .ccaReq (boundIn .rxOn)) = some [outCall .ccaRequest, done] := by decide
theorem test_edReq_gated :
    eventsOf (exec .edReq (boundIn .txOn)) = some [outCall (.edConfirm Status.txOn 0#8), done] := by decide
theorem test_edReq_forwarded :
    eventsOf (exec .edReq (boundIn .rxOn)) = some [outCall .edRequest, done] := by decide
/-- E7. -/
theorem test_ccaCnf : eventsOf (exec (.ccaCnf Status.busy) bound) =
    some [outCall (.ccaConfirm Status.busy), done] := by decide
theorem test_edCnf : eventsOf (exec (.edCnf Status.success 0x3C#8) bound) =
    some [outCall (.edConfirm Status.success 0x3C#8), done] := by decide
/-- P3. -/
theorem test_getReq : eventsOf (exec (.getReq 0x02#8) bound) =
    some [outCall (.getRequest 0x02#8), done] := by decide
theorem test_getReq_unsupported : eventsOf (exec (.getReq 0x04#8) bound) =
    some [outCall (.getConfirm Status.unsupportedAttribute 0x04#8 0#32), done] := by decide
theorem test_getCnf : eventsOf (exec (.getCnf Status.success 0x02#8 0xBF#32) bound) =
    some [outCall (.getConfirm Status.success 0x02#8 0xBF#32), done] := by decide
/-- L1-5. -/
theorem test_setReq_power :
    (nextState (exec (.setReq 0x02#8 0xBF#32) bound)).map (fun s => (s.pib, s.events)) =
      some ({ Pib.zero with transmitPower := 0xBF#8 }, [outCall (.setRequest 0x02#8 0xBF#32), done]) ∧
    (nextState (exec (.setReq 0x02#8 0xC0#32) bound)).map (fun s => (s.pib, s.events)) =
      some (Pib.zero, [outCall (.setConfirm Status.invalidParameter 0x02#8), done]) := by decide
/-- P3: the channel against the bitmap, empty after reset; and a channel that the driver sets from inside
its handler, against the bitmap just stored (R208). -/
theorem test_setReq_channel :
    eventsOf (exec (.setReq 0x00#8 11#32) bound) =
      some [outCall (.setConfirm Status.invalidParameter 0x00#8), done] ∧
    (nextState (exec (.setReq 0x00#8 11#32)
      { bound with pib := { Pib.zero with channelsSupported := 0x07FFF800#27 } })).map
        (fun s => s.pib.currentChannel) = some 11#8 ∧
    registersOf (exec (.setReq 0x01#8 0x800#32)
      (withReplies bound [{ commands := [encode (.setReq 0x00#8 11#32)], returns := true }])) =
      some { bound.registers with
        pib := { Pib.zero with channelsSupported := 0x800#27, currentChannel := 11#8 } } := by decide
theorem test_setCnf : eventsOf (exec (.setCnf Status.success 0x01#8) bound) =
    some [outCall (.setConfirm Status.success 0x01#8), done] := by decide
/-- C2: last writer wins, and 0 empties the slot. -/
theorem test_bindU :
    (nextState (exec (.bindU .data .confirm 0x2222#32) bound)).map (fun s => s.readPort 0x81) =
      some 0x2222#32 := by decide
/-- C3: read port 0x9F. -/
theorem test_bindL :
    (nextState (exec (.bindL .setTrx .confirm 5#32) base)).map (fun s => s.readPort 0x9F) =
      some 5#32 := by decide
/-- L1-8. -/
theorem test_decodeFrame :
    eventsOf (exec (.decodeFrame [0x01#8, 0x00#8, 0x2A#8, 0xAA#8, 0xBB#8, 0x12#8, 0x34#8, 0x64#8, 0xC8#8]
      6#8) base) =
      some [Event.completed (.frame
        { fc := 1#16, frameType := 1#3, securityEnabled := false, framePending := false,
          ackRequest := false, intraPan := false, dstMode := .absent, srcMode := .absent,
          frameVersion := 0#2, seq := 0x2A#8, dstPan := 0#16, dstAddr := 0#64, srcPan := 0#16,
          srcAddr := 0#64, aux := none, headerLen := 3, payload := [0xAA#8, 0xBB#8], fcs := 0x3412#16,
          lqi := 0x64#8, rssi := 0xC8#8 })] := by decide
/-- The worked example of R135. -/
theorem test_encodeFrame :
    (nextState (exec (.encodeFrame requestA) { base with dsn := 9#8 })).map (fun s => (s.dsn, s.events)) =
      some (10#8, [Event.completed (.mpdu [0x61#8, 0x88#8, 0x09#8, 0x34#8, 0x12#8, 0xEF#8, 0xBE#8, 0xFE#8, 0xCA#8,
        0xDE#8, 0xAD#8] 11#9)]) := by decide
/-- B2. -/
theorem test_encodeFrame_counter_wraps :
    (nextState (exec (.encodeFrame { bare 0#4 [] with intraPan := true }) { base with dsn := 0xFF#8 })).map
        (fun s => (s.dsn, s.events)) =
      some (0#8, [Event.completed (.mpdu [0x41#8, 0x00#8, 0xFF#8] 3#9)]) := by decide
/-- P4, first line. -/
theorem test_ptqAdd_stored :
    (nextState (exec (.ptqAdd 5#8 .data true) (withTime base 0x10#32))).map
        (fun s => (s.ptq, s.events, s.readPort 0x30)) =
      some ([entry 5#8 .data true 0x10#32], [Event.completed .stored], 0x205#32) := by decide
theorem test_ptqAdd_full :
    (nextState (exec (.ptqAdd 5#8 .data true)
      { withTime base 0x28#32 with ptq := List.replicate 10 (entry 1#8 .data false 0#32) })).map
        (fun s => (s.ptq.length, s.events)) = some (10, [Event.completed .droppedFull]) := by decide
/-- L1-7. -/
theorem test_ptqRemove :
    (nextState (exec (.ptqRemove 6#8)
      { base with ptq := [entry 5#8 .data true 0x10#32, entry 6#8 .command false 0x11#32,
                          entry 7#8 .data false 0x12#32] })).map (fun s => (s.ptq, s.events)) =
      some ([entry 5#8 .data true 0x10#32, entry 7#8 .data false 0x12#32], [Event.completed .found]) := by decide
theorem test_ptqRemove_notFound :
    (nextState (exec (.ptqRemove 6#8) base)).map (fun s => (s.ptq, s.events)) =
      some ([], [Event.completed .notFound]) := by decide

/-! ## The codec's corner cases -/

/-- A9: the Reserved source mode is not reached. -/
theorem test_decode_A9 :
    decodeMpdu .baseline [0x01#8, 0x4C#8, 0x07#8, 0x34#8, 0x12#8, 1#8, 2#8, 3#8, 4#8, 5#8, 6#8, 7#8] 14#8 =
      .error .truncated := by decide
/-- A15: the copied PAN identifier of an absent destination. -/
theorem test_decode_A15 :
    (decodeMpdu .baseline [0x41#8, 0x80#8, 0x07#8, 0xFE#8, 0xCA#8, 0x99#8, 0#8, 0#8, 0#8, 0#8] 7#8).toOption.map
        (fun f => (f.srcPan, f.srcAddr, f.headerLen, f.payload)) =
      some (0#16, 0xCAFE#64, 5, [0x99#8]) := by decide
/-- A20, in EXTENDED and in BASELINE. -/
theorem test_decode_A20 :
    (decodeMpdu .extended [0x09#8, 0x00#8, 0x05#8, 0x1D#8, 0x78#8, 0x56#8, 0x34#8, 0x12#8, 0xC1#8, 0xC2#8,
      0xC3#8, 0xC4#8, 0xC5#8, 0xC6#8, 0xC7#8, 0xC8#8, 0xC9#8, 0xEE#8, 0x11#8, 0x22#8, 0x33#8, 0x44#8]
      19#8).toOption.map (fun f => (f.aux, f.headerLen, f.payload, f.fcs)) =
      some (some { secControl := 0x1D#8, frameCounter := 0x12345678#32,
                   keyId := [0xC1#8, 0xC2#8, 0xC3#8, 0xC4#8, 0xC5#8, 0xC6#8, 0xC7#8, 0xC8#8, 0xC9#8] },
            17, [0xEE#8], 0x2211#16) ∧
    (decodeMpdu .baseline [0x09#8, 0x00#8, 0x05#8, 0x05#8, 0x78#8, 0x56#8, 0x34#8, 0x12#8, 0xEE#8, 0x11#8,
      0x22#8, 0x33#8, 0x44#8] 10#8).toOption.map (fun f => (f.aux, f.headerLen, f.payload)) =
      some (none, 3, [0x05#8, 0x78#8, 0x56#8, 0x34#8, 0x12#8, 0xEE#8]) := by decide
/-- B3, with a checksum function that returns 0xBEAD. -/
theorem test_encode_B3 :
    encodeMpdu true (fun _ => 0xBEAD#16) 5#8
      { bare 0b0001#4 [0xAA#8] with dstMode := 2#8, dstPan := 0x1234#16, dstAddr := 0xBEEF#64 } =
      [0x21#8, 0x08#8, 0x05#8, 0x34#8, 0x12#8, 0xEF#8, 0xBE#8, 0xAA#8, 0xAD#8, 0xBE#8] := by decide
/-- B1: the substituted mode, and the dropped bit 16 of a short address. -/
theorem test_encode_B1 :
    ∀ m ∈ [1#8, 4#8, 255#8],
      encodeMpdu false (fun _ => 0#16) 0x20#8
        { bare 0#4 [0x01#8] with dstMode := m, dstPan := 0x1234#16, dstAddr := 0xBEEF#64,
                                 srcMode := 2#8, srcPan := 0xABCD#16, srcAddr := 0x1CAFE#64 } =
        [0x01#8, 0x80#8, 0x20#8, 0xCD#8, 0xAB#8, 0xFE#8, 0xCA#8, 0x01#8] := by decide
set_option maxRecDepth 4000 in
/-- B5: the saturated length octet. -/
theorem test_ppdu_B5 :
    (ppduWrap (List.replicate 127 0#8)).take 6 = [0#8, 0#8, 0#8, 0#8, 0xA7#8, 0x7F#8] ∧
    (ppduWrap (List.replicate 128 0#8)).take 6 = [0#8, 0#8, 0#8, 0#8, 0xA7#8, 0x7F#8] ∧
    (ppduWrap (List.replicate 128 0#8)).length = 134 := by decide

/-! ## Witnesses: states and operands that meet the hypotheses of each statement -/

theorem bound_quiet : bound.quiet := rfl
theorem boundIn_quiet (t : TrxState) : (boundIn t).quiet := rfl

set_option maxRecDepth 4000 in
theorem witness_CommandRoundTrip :
    (Instr.encodeFrame (bare 0#4 (List.replicate 255 0#8))).wellFormed = true ∧
    (Instr.dataInd (List.replicate 258 0#8) 0#8).wellFormed = true := by decide

theorem witness_DecodedCommandReencodes :
    decode [0x43#8, 0x05#8, 0xFF#8] = .ok (.ptqRemove 5#8, [0xFF#8]) := by decide

theorem witness_StepRunsDecodedCommand :
    (withInbox base [.command [0x43#8, 0x05#8], .reset]).env.inbox = .command [0x43#8, 0x05#8] :: [.reset] ∧
    decode [0x43#8, 0x05#8] = .ok (.ptqRemove 5#8, []) := by decide

theorem witness_IllegalCommandHasNoEffect :
    (withInbox bound [.command [0xFF#8, 0x01#8]]).env.inbox = .command (0xFF#8 :: [0x01#8]) :: [] ∧
    decode (0xFF#8 :: [0x01#8]) = .error (.illegalCommand 0xFF#8) := by decide

theorem witness_WaitsWhenNothingPresented : bound.env.inbox = [] := rfl

theorem witness_ResetInputRestoresRegisters :
    (withInbox (boundIn .txOn) [.reset, .command [0x04#8]]).env.inbox = .reset :: [.command [0x04#8]] := rfl

/-- At the bounds of the invariant, with a step that runs. -/
theorem witness_InvariantKeptByStep :
    (withInbox { bound with pib := { Pib.zero with currentChannel := 26#8, transmitPower := 0xBF#8, ccaMode := 0xBF#8 },
                            ptq := List.replicate 10 (entry 1#8 .data false 0#32) }
      [.command [0x14#8, 0x02#8, 0xC0#8, 0x00#8, 0x00#8, 0x00#8]]).inv ∧
    (nextState (step (withInbox
      { bound with pib := { Pib.zero with currentChannel := 26#8, transmitPower := 0xBF#8, ccaMode := 0xBF#8 },
                   ptq := List.replicate 10 (entry 1#8 .data false 0#32) }
      [.command [0x14#8, 0x02#8, 0xC0#8, 0x00#8, 0x00#8, 0x00#8]]))).isSome = true :=
  ⟨⟨⟨by decide, by decide, by decide⟩, by decide⟩, by decide⟩

theorem witness_UnusedSlotsHaveNoEffect :
    (Svc.cca ≠ Svc.data) ∧ (boundIn .rxOn).quiet ∧ isBind Instr.ccaReq.opcode = false :=
  ⟨by decide, rfl, rfl⟩

theorem witness_NullInboundSlotIsSilent :
    inboundSlot (.dataInd bufferL12 12#8) = some (.lower, .data, .indication) ∧
    base.slot .lower .data .indication = 0#32 := by decide

/-- The three clauses: a NULL slot, a bound one with no reply, a bound one with a reply. -/
theorem witness_CallRunsHandlerCommands :
    base.slot .upper .cca .confirm = 0#32 ∧
    (bound.slot .upper .cca .confirm ≠ 0#32 ∧ bound.env.replies = []) ∧
    (withReplies bound [confirmsTrx Status.rxOn]).slot .upper .cca .confirm ≠ 0#32 ∧
    (withReplies bound [confirmsTrx Status.rxOn]).env.replies = confirmsTrx Status.rxOn :: [] := by decide

theorem witness_SetTrxRequestForwardedOrRefused :
    bound.quiet ∧ bound.slot .upper .setTrx .request ≠ 0#32 ∧
    Status.forceTrxOff ∈ [Status.rxOn, Status.trxOff, Status.txOn, Status.forceTrxOff] ∧
    Status.busyTx ∉ [Status.rxOn, Status.trxOff, Status.txOn, Status.forceTrxOff] :=
  ⟨rfl, by decide, by decide, by decide⟩

/-- A status that is a state and one that is not, no handler that issues a command (quiet, and NULL), and
one that does. -/
theorem witness_SetTrxConfirmTracksState :
    bound.slot .lower .setTrx .confirm ≠ 0#32 ∧ bound.quiet ∧ TrxState.busyTx.code = Status.busyTx ∧
    (∀ state : TrxState, state.code ≠ Status.success) ∧
    (bound.bindSlot .upper .setTrx .confirm 0#32).slot .upper .setTrx .confirm = 0#32 ∧
    (withReplies bound [silent]).slot .upper .setTrx .confirm ≠ 0#32 ∧
    (withReplies bound [silent]).env.replies = silent :: [] :=
  ⟨by decide, rfl, rfl, fun state => by cases state <;> decide, by decide, by decide, rfl⟩

theorem witness_DataRequestRefusedUnlessOff :
    (boundIn .forceTrxOff).quiet ∧ (boundIn .forceTrxOff).slot .upper .data .request ≠ 0#32 ∧
    (boundIn .forceTrxOff).trxState ≠ .trxOff := ⟨rfl, by decide, by decide⟩

set_option maxRecDepth 4000 in
theorem witness_DataRequestRefusedOversize :
    bound.quiet ∧ bound.slot .upper .data .request ≠ 0#32 ∧ bound.trxState = .trxOff ∧
    127 < (bare 0#4 (List.replicate 128 0#8)).payload.length := ⟨rfl, by decide, rfl, by decide⟩

set_option maxRecDepth 4000 in
/-- The three clauses: a quiet driver, a reply that leaves another state than TX_ON, a driver that confirms
RX_ON inline. -/
theorem witness_DataRequestVanishesUnconfirmed :
    bound.slot .upper .data .request ≠ 0#32 ∧ bound.trxState = .trxOff ∧
    (bare 0#4 (List.replicate 127 0#8)).payload.length ≤ 127 ∧ bound.quiet ∧
    bound.slot .lower .setTrx .request ≠ 0#32 ∧ bound.slot .lower .setTrx .confirm ≠ 0#32 ∧
    ((nextState (runAll exec silent.commands bound)).map (·.trxState) = some .trxOff ∧
      silent.returns = true) ∧
    (withReplies bound [confirmsTrx Status.rxOn]).env.replies = [confirmsTrx Status.rxOn] ∧
    Status.rxOn ≠ Status.txOn :=
  ⟨by decide, rfl, by decide, rfl, by decide, by decide, by decide, rfl, by decide⟩

set_option maxRecDepth 4000 in
theorem witness_DataRequestTransmits :
    (withReplies bound [confirmsTrx Status.txOn]).slot .upper .data .request ≠ 0#32 ∧
    (withReplies bound [confirmsTrx Status.txOn]).slot .lower .setTrx .request ≠ 0#32 ∧
    (withReplies bound [confirmsTrx Status.txOn]).slot .lower .setTrx .confirm ≠ 0#32 ∧
    (withReplies bound [confirmsTrx Status.txOn]).trxState = .trxOff ∧
    (bare 0#4 (List.replicate 127 0#8)).payload.length ≤ 127 ∧
    (withReplies bound [confirmsTrx Status.txOn]).env.replies = [confirmsTrx Status.txOn] := by decide

/-- An entry at the head, one in the middle, and none. -/
theorem witness_DataConfirmResolvesEntry :
    bound.quiet ∧ bound.slot .lower .data .confirm ≠ 0#32 ∧
    (∀ e ∈ bound.ptq, e.handle ≠ bound.txHandle) ∧
    ([entry 5#8 .data true 0#32, entry 0#8 .data true 0#32] =
        [entry 5#8 .data true 0#32] ++ entry 0#8 .data true 0#32 :: [] ∧
      (∀ x ∈ [entry 5#8 .data true 0#32], x.handle ≠ bound.txHandle) ∧
      (entry 0#8 .data true 0#32).handle = bound.txHandle) :=
  ⟨rfl, by decide, by decide, by decide⟩

/-- A driver that confirms both requests inline, with the upper SETTRX confirm slot bound. -/
def confirmsInline : State :=
  withReplies { bound with ptq := List.replicate 9 (entry 5#8 .data true 0#32) }
    [confirmsTrx Status.txOn, silent, { commands := [encode (.dataCnf Status.success)], returns := true }]

theorem witness_ConfirmInsideTransmitResolves :
    confirmsInline.slot .upper .data .request ≠ 0#32 ∧ confirmsInline.slot .lower .setTrx .request ≠ 0#32 ∧
    confirmsInline.slot .lower .setTrx .confirm ≠ 0#32 ∧ confirmsInline.slot .lower .data .request ≠ 0#32 ∧
    confirmsInline.slot .lower .data .confirm ≠ 0#32 ∧ confirmsInline.trxState = .trxOff ∧
    requestA.payload.length ≤ 127 ∧ confirmsInline.ptq.length < 10 ∧
    (∀ e ∈ confirmsInline.ptq, e.handle ≠ requestA.handle) ∧
    confirmsInline.env.replies =
      confirmsTrx Status.txOn ::
        ((if confirmsInline.slot .upper .setTrx .confirm = 0#32 then []
          else [{ commands := [], returns := true }]) ++
          [{ commands := [encode (.dataCnf Status.success)], returns := true }]) := by decide
/-- What happens there (R178, R285). -/
theorem test_confirm_inside_transmit :
    registersOf (exec (.dataReq requestA) confirmsInline) =
      some { confirmsInline.registers with
        trxState := .txOn, dsn := 1#8, dataStatus := Status.success, txHandle := 0x42#8 } := by decide

/-- Both outcomes of the decoder. -/
theorem witness_DataIndicationDispatchesFrame :
    bound.quiet ∧ bound.slot .lower .data .indication ≠ 0#32 ∧
    decodeMpdu bound.build.variant [0x01#8, 0x00#8] 6#8 = .error .truncated ∧
    (decodeMpdu bound.build.variant bufferL12 12#8).toOption.isSome = true :=
  ⟨rfl, by decide, by decide, by decide⟩

theorem witness_CcaRequestGatedByState :
    (boundIn .rxOn).quiet ∧ (boundIn .rxOn).slot .upper .cca .request ≠ 0#32 ∧
    (boundIn .rxOn).trxState = .rxOn ∧ bound.quiet ∧ bound.slot .upper .cca .request ≠ 0#32 ∧
    bound.trxState ≠ .rxOn := ⟨rfl, by decide, rfl, rfl, by decide, by decide⟩

theorem witness_EdRequestGatedByState :
    (boundIn .rxOn).quiet ∧ (boundIn .rxOn).slot .upper .ed .request ≠ 0#32 ∧
    (boundIn .rxOn).trxState = .rxOn ∧ bound.quiet ∧ bound.slot .upper .ed .request ≠ 0#32 ∧
    bound.trxState ≠ .rxOn := ⟨rfl, by decide, rfl, rfl, by decide, by decide⟩

theorem witness_ConfirmsArePassedOn :
    bound.quiet ∧ bound.slot .lower .cca .confirm ≠ 0#32 ∧ bound.slot .lower .ed .confirm ≠ 0#32 ∧
    bound.slot .lower .get .confirm ≠ 0#32 ∧ bound.slot .lower .set .confirm ≠ 0#32 :=
  ⟨rfl, by decide, by decide, by decide, by decide⟩

theorem witness_GetRequestForwardedOrUnsupported :
    bound.quiet ∧ bound.slot .upper .get .request ≠ 0#32 ∧ 3 < (0x04#8).toNat ∧ (0x03#8).toNat ≤ 3 :=
  ⟨rfl, by decide, by decide, by decide⟩

/-- Each attribute at its largest accepted value; a quiet driver and one that takes a reply. -/
theorem witness_SetRequestStoresAcceptedValue :
    let s := { bound with pib := { Pib.zero with channelsSupported := 0x04000000#27 } }
    s.quiet ∧ s.slot .upper .set .request ≠ 0#32 ∧
    ((26#32).toNat ≤ 26 ∧ s.pib.channelsSupported.getLsbD (26#32).toNat = true) ∧
    (0x07FFFFFF#32).toNat < 2 ^ 27 ∧ (0xBF#32).toNat ≤ 0xBF ∧
    s.slot .lower .set .request ≠ 0#32 ∧ (withReplies s [silent]).env.replies = silent :: [] :=
  ⟨rfl, by decide, by decide, by decide, by decide, by decide, rfl⟩

/-- Each way to be refused, at its boundary. -/
theorem witness_SetRequestRejectsOutOfRange :
    bound.quiet ∧ bound.slot .upper .set .request ≠ 0#32 ∧ 3 < (0x04#8).toNat ∧ 26 < (27#32).toNat ∧
    bound.pib.channelsSupported.getLsbD (0#32).toNat = false ∧ 2 ^ 27 ≤ (0x08000000#32).toNat ∧
    0xBF < (0xC0#32).toNat :=
  ⟨rfl, by decide, by decide, by decide, by decide, by decide, by decide⟩

theorem witness_AddAppendsUnlessFull :
    (withTime base 0x10#32).env.timeInput = 0x10#32 :: [] ∧ (withTime base 0x10#32).ptq.length ≠ 10 ∧
    (List.replicate 10 (entry 1#8 .data false 0#32)).length = 10 := by decide

theorem witness_RemoveTakesFirstMatch :
    ([entry 5#8 .data true 0#32, entry 6#8 .data true 0#32, entry 6#8 .command true 0#32] =
        [entry 5#8 .data true 0#32] ++ entry 6#8 .data true 0#32 :: [entry 6#8 .command true 0#32] ∧
      (∀ x ∈ [entry 5#8 .data true 0#32], x.handle ≠ 6#8) ∧ (entry 6#8 .data true 0#32).handle = 6#8) ∧
    (∀ e ∈ base.ptq, e.handle ≠ 6#8) := by decide

theorem witness_DecodeChangesNoRegister :
    (decodeMpdu base.build.variant bufferL12 12#8).toOption.isSome = true ∧
    decodeMpdu base.build.variant [] 4#8 = .error .truncated := by decide

theorem witness_ShortBufferIsTruncated : ([0x01#8, 0x00#8] : Octets).length < 3 := by decide

/-- L1-3, both fields. -/
theorem witness_ReservedModeNeverDecodes :
    (0x04#8).toNat / 4 % 4 = 1 ∧ (0x40#8).toNat / 64 = 1 ∧ (0x40#8).toNat / 4 % 4 ≠ 1 := by decide

/-- The four clauses for row 2/2/0 of A11 to A13, and one with an auxiliary header cut short. -/
theorem witness_DecodeOutcomes :
    let buf : Octets := [0x01#8, 0x88#8, 0x07#8, 0x34#8, 0x12#8, 0xEF#8, 0xBE#8, 0xCD#8, 0xAB#8, 0xFE#8,
      0xCA#8, 0#8, 0#8, 0#8, 0#8]
    3 ≤ buf.length ∧ AddrMode.short16.code.toNat = leValue (buf.take 2) / 1024 % 4 ∧
    AddrMode.short16.code.toNat = leValue (buf.take 2) / 16384 ∧
    headerLength .short16 .short16 ((leValue (buf.take 2)).testBit 6) = 11 ∧
    ((buf.take 10).length < 11) ∧ (11 ≤ buf.length ∧ (11#8).toNat < 11 + 1) ∧
    (11 + 1 ≤ (13#8).toNat ∧ 11 ≤ buf.length ∧ buf.length < (13#8).toNat + 3) ∧
    (11 + 1 ≤ (12#8).toNat ∧ (12#8).toNat + 3 ≤ buf.length) := by decide

/-- With and without addresses and auxiliary header. -/
theorem witness_DecodedFrameLayout :
    (decodeMpdu .baseline bufferL12 12#8).toOption.map (fun f => (f.dstMode, f.srcMode, f.intraPan)) =
      some (.short16, .short16, true) ∧
    (decodeMpdu .extended [0x09#8, 0x00#8, 0x05#8, 0x05#8, 0x78#8, 0x56#8, 0x34#8, 0x12#8, 0xEE#8, 0x11#8,
      0x22#8, 0x33#8, 0x44#8] 10#8).toOption.map (fun f => (f.dstMode, f.aux.isSome)) =
      some (.absent, true) ∧
    (decodeMpdu .baseline [0x01#8, 0x88#8, 0x07#8, 0x34#8, 0x12#8, 0xEF#8, 0xBE#8, 0xCD#8, 0xAB#8, 0xFE#8,
      0xCA#8, 0#8, 0#8, 0#8, 0#8] 12#8).toOption.map (fun f => (f.srcMode, f.intraPan)) =
      some (.short16, false) := by decide

/-- A14: frame type 7 and the reserved bits. -/
theorem witness_DecodedFlagsAreFrameControlBits :
    (decodeMpdu .extended [0xC7#8, 0x03#8, 0x07#8, 0x55#8, 0xF1#8, 0xF2#8, 0x40#8, 0x90#8] 5#8).toOption.map
      (fun f => (f.fc, f.frameType)) = some (0x03C7#16, 7#3) := by decide

theorem witness_EncodedFrameLayout :
    AddrMode.short16 = AddrMode.norm requestA.dstMode ∧ AddrMode.short16 = AddrMode.norm requestA.srcMode ∧
    9 = headerLength .short16 .short16 requestA.intraPan ∧ (AddrMode.short16 ≠ .absent) ∧
    (bare 0#4 []).intraPan = false := by decide

set_option maxRecDepth 4000 in
theorem witness_EncodedSizesFitBuffers :
    (bare 0#4 (List.replicate 255 0#8)).payload.length ≤ 255 ∧
    (bare 0#4 (List.replicate 127 0#8)).payload.length ≤ 127 := by decide

/-- Conditions (i) to (iv) of R140, for request A and for one with Absent modes. -/
theorem witness_FrameRoundTrip :
    (requestA.dstMode.toNat = AddrMode.short16.code.toNat ∧ requestA.srcMode.toNat = AddrMode.short16.code.toNat ∧
      requestA.dstAddr.toNat < 2 ^ 16 ∧ requestA.srcAddr.toNat < 2 ^ 16 ∧ requestA.intraPan = true ∧
      AddrMode.short16 ≠ .absent ∧ requestA.srcPan = requestA.dstPan ∧
      requestA.txOptions.getLsbD 3 = false ∧ ([0#8, 0#8] : Octets).length = 2 ∧
      headerLength .short16 .short16 requestA.intraPan + requestA.payload.length + 1 ≤ 255) ∧
    ((bare 8#4 [1#8]).dstMode.toNat = AddrMode.absent.code.toNat ∧ (bare 8#4 [1#8]).dstPan = 0#16 ∧
      (bare 8#4 [1#8]).dstAddr = 0#64 ∧ (bare 8#4 [1#8]).srcPan = 0#16 ∧ (bare 8#4 [1#8]).srcAddr = 0#64 ∧
      headerLength .absent .absent false + 1 + 1 ≤ 255) := by decide

theorem witness_SequenceNumbersOfEncodes :
    (∀ r ∈ [bare 0#4 [], requestA], r.wellFormed = true) ∧
    (withInbox base ([bare 0#4 [], requestA].map fun r => Input.command (encode (.encodeFrame r)))).env.inbox =
      [bare 0#4 [], requestA].map fun r => Input.command (encode (.encodeFrame r)) := by decide

/-- A driver that confirms, one that issues an illegal byte, and no handler at all. -/
theorem witness_EveryCommandCompletes :
    (withReplies bound [confirmsTrx Status.txOn, { commands := [[0xFF#8]], returns := true }]).env.wellBehaved ∧
    bound.env.wellBehaved := by
  refine ⟨?_, fun _ h => by cases h⟩
  intro reply h
  simp only [withReplies, List.mem_cons, List.not_mem_nil, or_false] at h
  obtain rfl | rfl := h
  · refine ⟨rfl, fun c hc => ?_⟩
    simp only [confirmsTrx, List.mem_cons, List.not_mem_nil, or_false] at hc
    subst hc
    exact .inl ⟨.setTrxCnf Status.txOn, [], by decide⟩
  · refine ⟨rfl, fun c hc => ?_⟩
    simp only [List.mem_cons, List.not_mem_nil, or_false] at hc
    subst hc
    exact .inr ⟨0xFF#8, by decide⟩

/-- A handler that issues a PTQ.REMOVE avoids every other kind of command. -/
def removesInside : State :=
  withReplies (boundIn .rxOn) [{ commands := [encode (.ptqRemove 5#8)], returns := true }]

theorem removesInside_avoids {kind : Opcode → Bool} (h : kind .ptqRemove = false) :
    removesInside.env.avoids kind := by
  intro reply hr c hc i rest hd
  simp only [removesInside, withReplies, List.mem_cons, List.not_mem_nil, or_false] at hr
  subst hr
  simp only [List.mem_cons, List.not_mem_nil, or_false] at hc
  subst hc
  have he : decode (encode (.ptqRemove 5#8)) = .ok (.ptqRemove 5#8, []) := by decide
  rw [he] at hd
  cases hd
  exact h

theorem removesInside_runs : (nextState (exec .ccaReq removesInside)).isSome = true := by decide

theorem witness_OnlySetTrxConfirmChangesState :
    Instr.ccaReq.opcode ≠ .setTrxCnf ∧
    removesInside.env.avoids (fun op => decide (op = .setTrxCnf)) ∧
    bound.quiet ∧ bound.slot .lower .setTrx .confirm ≠ 0#32 ∧ bound.slot .upper .setTrx .request ≠ 0#32 :=
  ⟨by decide, removesInside_avoids (by decide), rfl, by decide, by decide⟩

theorem witness_OnlyEncodingChangesSequenceCounter :
    Instr.ccaReq.opcode ≠ .encodeFrame ∧ Instr.ccaReq.opcode ≠ .dataReq ∧
    removesInside.env.avoids (fun op => decide (op = .encodeFrame ∨ op = .dataReq)) :=
  ⟨by decide, by decide, removesInside_avoids (by decide)⟩

theorem witness_OnlyBindChangesRegistry :
    isBind Instr.ccaReq.opcode = false ∧ removesInside.env.avoids isBind :=
  ⟨rfl, removesInside_avoids rfl⟩

theorem witness_OnlySetRequestChangesPib :
    Instr.ccaReq.opcode ≠ .setReq ∧ removesInside.env.avoids (fun op => decide (op = .setReq)) :=
  ⟨by decide, removesInside_avoids (by decide)⟩

theorem witness_OnlyQueueCommandsChangeQueue :
    Instr.ccaReq.opcode ≠ .ptqAdd ∧ Instr.ccaReq.opcode ≠ .ptqRemove ∧ Instr.ccaReq.opcode ≠ .dataReq ∧
    Instr.ccaReq.opcode ≠ .dataCnf ∧
    (withReplies bound [confirmsTrx Status.rxOn]).env.avoids
      (fun op => decide (op = .ptqAdd ∨ op = .ptqRemove ∨ op = .dataReq ∨ op = .dataCnf)) ∧
    (nextState (exec .ccaReq (withReplies bound [confirmsTrx Status.rxOn]))).isSome = true := by
  refine ⟨by decide, by decide, by decide, by decide, ?_, by decide⟩
  intro reply hr c hc i rest hd
  simp only [withReplies, List.mem_cons, List.not_mem_nil, or_false] at hr
  subst hr
  simp only [confirmsTrx, List.mem_cons, List.not_mem_nil, or_false] at hc
  subst hc
  have he : decode (encode (.setTrxCnf Status.rxOn)) = .ok (.setTrxCnf Status.rxOn, []) := by decide
  rw [he] at hd
  cases hd
  decide

theorem witness_OnlyDataCommandsChangeDataRegisters :
    Instr.ccaReq.opcode ≠ .dataReq ∧ removesInside.env.avoids (fun op => decide (op = .dataReq)) ∧
    Instr.ccaReq.opcode ≠ .dataCnf ∧ removesInside.env.avoids (fun op => decide (op = .dataCnf)) :=
  ⟨by decide, removesInside_avoids (by decide), by decide, removesInside_avoids (by decide)⟩

theorem witness_CommandsKeepSurroundings :
    (nextState (exec .ccaReq
      { removesInside with ghost := { removesInside.ghost with doubleIssue := true } })).isSome = true := by
  decide

/-- A request in flight for each service and a bound inbound slot; a DATA.req that transmits; a Confirm
whose upper handler issues a request. -/
theorem witness_GhostMarksDoubleIssue :
    let g : InFlight := { data := true, cca := true, ed := true, get := true, setTrx := true, set := true }
    let s : State :=
      { boundIn .rxOn with ghost := { inFlight := g, confirming := InFlight.none, doubleIssue := false } }
    let inside := withReplies (boundIn .rxOn) [{ commands := [encode .ccaReq], returns := true }]
    let transmits := withReplies bound [confirmsTrx Status.txOn]
    s.quiet ∧ (∀ svc, s.ghost.outstanding svc = true) ∧
    (∀ inst svc role, inboundSlot (.dataCnf 0#8) = some (inst, svc, role) → s.slot inst svc role ≠ 0#32) ∧
    (transmits.slot .upper .data .request ≠ 0#32 ∧ transmits.slot .lower .setTrx .request ≠ 0#32 ∧
      transmits.slot .lower .setTrx .confirm ≠ 0#32 ∧ transmits.slot .lower .data .request ≠ 0#32 ∧
      transmits.trxState = .trxOff ∧ requestA.payload.length ≤ 127 ∧
      transmits.env.replies = [confirmsTrx Status.txOn]) ∧
    inside.slot .lower .cca .confirm ≠ 0#32 ∧ inside.slot .upper .cca .confirm ≠ 0#32 ∧
    inside.slot .upper .cca .request ≠ 0#32 ∧ inside.slot .lower .cca .request ≠ 0#32 ∧
    inside.trxState = .rxOn ∧
    inside.env.replies = [{ commands := [encode .ccaReq], returns := true }] :=
  ⟨rfl, fun svc => by cases svc <;> rfl, fun inst svc role h => by cases h; decide, by decide, by decide,
    by decide, by decide, by decide, rfl, rfl⟩
/-- R271: a request forwarded from inside the handler of an unsolicited Confirm stays in flight, and the
next one is a double issue. -/
theorem test_ghost_request_inside_confirm :
    ((nextState (exec (.ccaCnf Status.success)
        (withReplies (boundIn .rxOn) [{ commands := [encode .ccaReq], returns := true }]))).map
      (fun t => (t.ghost.inFlight.cca, t.ghost.doubleIssue,
        (nextState (exec .ccaReq t)).map (·.ghost.doubleIssue)))) = some (true, false, some true) := by decide
/-- R271: "an upper SETTRX.req must not be outstanding when a DATA.req or a DATA.cnf runs", be it refused. -/
theorem test_ghost_settrx_outstanding :
    ((nextState (exec (.setTrxReq Status.rxOn) (boundIn .rxOn))).map fun t =>
      (t.ghost.doubleIssue, (nextState (exec (.dataReq requestA) t)).map (·.ghost.doubleIssue),
        (nextState (exec (.dataCnf Status.success) t)).map (·.ghost.doubleIssue))) =
      some (false, some true, some true) := by decide

/-- A driver that confirms RX_ON from inside its SETTRX handler, with the entry of `txHandle` behind
another one. -/
def returnsToReceive : State :=
  withReplies { boundIn .txOn with txHandle := 0x42#8,
                                   ptq := [entry 0x41#8 .data false 0#32, entry 0x42#8 .data true 0#32] }
    [confirmsTrx Status.rxOn]

theorem witness_DataConfirmReturnsToReceive :
    returnsToReceive.slot .lower .data .confirm ≠ 0#32 ∧
    returnsToReceive.slot .lower .setTrx .request ≠ 0#32 ∧
    returnsToReceive.slot .lower .setTrx .confirm ≠ 0#32 ∧
    returnsToReceive.env.replies = [confirmsTrx Status.rxOn] ∧
    (confirmsTrx Status.rxOn).returns = true ∧
    ((nextState (runAll exec (confirmsTrx Status.rxOn).commands (withReplies returnsToReceive []))).map
      (·.env.replies)) = some [] := by decide
/-- What happens there (R181; program P1). -/
theorem test_confirm_returns_to_receive :
    registersOf (exec (.dataCnf Status.success) returnsToReceive) =
      some { returnsToReceive.registers with
        trxState := .rxOn, dataStatus := Status.success, ptq := [entry 0x41#8 .data false 0#32] } := by decide

/-- A driver whose first SETTRX handler reports TRX_OFF and lets another DATA.req run, which transmits. -/
def transmitsInside : State :=
  withReplies (bound.bindSlot .upper .setTrx .confirm 0#32)
    [{ commands := [encode (.setTrxCnf Status.trxOff), encode (.dataReq (bare 0#4 []))], returns := true },
      confirmsTrx Status.txOn]

/-- A forwarded request with one of its service in flight, and the nested DATA.req. -/
theorem witness_ForwardedWhileInFlightIsMarked :
    (let g : InFlight := { InFlight.none with cca := true }
     let s : State :=
       { bound with ghost := { inFlight := g, confirming := InFlight.none, doubleIssue := false } }
     OutArgs.ccaRequest.role = .request ∧ s.slot .lower .cca .request ≠ 0#32 ∧
     s.ghost.outstanding .cca = true ∧
     ((nextState (callIfPresent invokeHandler .ccaRequest s)).map (·.ghost.doubleIssue)) = some true) ∧
    transmitsInside.slot .upper .data .request ≠ 0#32 ∧
    transmitsInside.slot .lower .setTrx .request ≠ 0#32 ∧
    transmitsInside.slot .lower .setTrx .confirm ≠ 0#32 ∧
    transmitsInside.slot .lower .data .request ≠ 0#32 ∧
    transmitsInside.slot .upper .setTrx .confirm = 0#32 ∧ transmitsInside.trxState = .trxOff ∧
    requestA.payload.length ≤ 127 ∧ (bare 0#4 []).payload.length ≤ 127 ∧
    transmitsInside.env.replies =
      [{ commands := [encode (.setTrxCnf Status.trxOff), encode (.dataReq (bare 0#4 []))], returns := true },
        confirmsTrx Status.txOn] := by decide

theorem witness_ReadPortShowsRegisters :
    (List.replicate 10 (entry 1#8 .command true 0xFFFFFFFF#32)).length ≤ 10 ∧
    (List.replicate 3 (entry 1#8 .command true 0#32)).length ≤ 9 := by decide

end Sys2Proof.Tests
end

section
/-!
PROOFS. The scope of the machine (00_scope.md): a step runs the decoded command, a call runs its handler's
commands, and no command touches what surrounds the block.
-/

namespace Sys2Proof
namespace Machine

/-! ## Steps (R9, R13) -/

/-- A presented command is taken from the inbox and run. -/
theorem step_command {s : State} {octets : Octets} {more : List Input}
    (h : s.env.inbox = .command octets :: more) : step s = runOctets exec octets s.dropInput := by
  simp only [step, h]

theorem runOctets_ok {run : Instr → State → Result} {octets : Octets} {i : Instr} {rest : Octets}
    (h : decode octets = .ok (i, rest)) (s : State) : runOctets run octets s = run i s := by
  simp only [runOctets, h]

/-- Taking the first presented input leaves the later ones, and every other field. -/
theorem State.dropInput_eq {s : State} {input : Input} {more : List Input}
    (h : s.env.inbox = input :: more) : s.dropInput = { s with env := { s.env with inbox := more } } := by
  simp only [State.dropInput, State.setEnv, h, List.tail_cons]

/-- Settles O5: the octets decode to `i`, so running them is running `i`. -/
theorem stepRunsDecodedCommand : Obligations.StepRunsDecodedCommand := by
  intro s octets more i rest hinbox hdecode
  rw [step_command hinbox, runOctets_ok hdecode, State.dropInput_eq hinbox]

/-! ## Calls (R12, R154, R155, R159) -/

/-- After an OutCall whose handler takes a reply: the event is emitted and the other replies are left. -/
theorem State.emit_dropReply {s : State} {reply : Reply} {rest : List Reply} (c : OutCall)
    (h : s.env.replies = reply :: rest) :
    (s.emit c).dropReply = { s.emit c with env := { s.env with replies := rest } } := by
  simp only [State.dropReply, State.setEnv, State.emit_env, h, List.tail_cons]

/-- Settles O14: one case per state of the slot and of the list of replies. -/
theorem callRunsHandlerCommands : Obligations.CallRunsHandlerCommands := by
  intro args s
  refine ⟨callIfPresent_null, fun hbound hquiet => ?_, fun reply rest hbound hreplies => ?_⟩
  · rw [callIfPresent_bound hbound, invokeHandler_quiet hquiet]
  · rw [callIfPresent_cons hbound hreplies, State.emit_dropReply _ hreplies]
    rfl

/-! ## The surroundings of the block (R7, R271) -/

/-- From `s` to `t` the build parameters and the presented inputs stay, events are only added, and the mark
of a broken in-flight precondition is not cleared. -/
structure KeepsSurroundings (s t : State) : Prop where
  build : t.build = s.build
  inbox : t.env.inbox = s.env.inbox
  events : s.events <+: t.events
  mark : s.ghost.doubleIssue = true → t.ghost.doubleIssue = true

namespace KeepsSurroundings

theorem refl (s : State) : KeepsSurroundings s s := ⟨rfl, rfl, ⟨[], List.append_nil _⟩, id⟩

/-- The surroundings are kept by a part of a command that writes none of them. -/
theorem of_same {s t u : State} (h : KeepsSurroundings s t) (hbuild : u.build = t.build)
    (hinbox : u.env.inbox = t.env.inbox) (hevents : u.events = t.events) (hghost : u.ghost = t.ghost) :
    KeepsSurroundings s u where
  build := hbuild.trans h.build
  inbox := hinbox.trans h.inbox
  events := hevents ▸ h.events
  mark := hghost ▸ h.mark

/-- Every shared write keeps the surroundings a command started with. -/
theorem closed (s : State) : Closed (fun _ => false) (KeepsSurroundings s) where
  log _ _ h := { h with events := h.events.trans ⟨_, rfl⟩ }
  ghost _ _ hmark h := { h with mark := fun hs => hmark (h.mark hs) }
  reply _ h := h.of_same rfl rfl rfl rfl
  sample t h := h.of_same t.sampleTime_build t.sampleTime_inbox t.sampleTime_events t.sampleTime_ghost
  trx _ _ _ h := h.of_same rfl rfl rfl rfl
  dsn _ _ h := h.of_same rfl rfl rfl rfl
  status _ _ _ h := h.of_same rfl rfl rfl rfl
  handle _ _ _ h := h.of_same rfl rfl rfl rfl
  bind inst svc role _ t handler h :=
    h.of_same (t.bindSlot_build inst svc role handler)
      (congrArg Env.inbox (t.bindSlot_env inst svc role handler))
      (t.bindSlot_events inst svc role handler) (t.bindSlot_ghost inst svc role handler)
  pib _ _ _ _ _ h := h.of_same rfl rfl rfl rfl
  add _ _ _ _ h := h.of_same rfl rfl rfl rfl
  remove _ _ _ _ _ h := h.of_same rfl rfl rfl rfl

end KeepsSurroundings

/-- A command keeps the surroundings, whatever its handlers do. -/
theorem exec_keepsSurroundings {i : Instr} {s t : State} (h : exec i s = .next t) :
    KeepsSurroundings s t :=
  exec_keeps (KeepsSurroundings.closed s) rfl (Env.avoids_nothing _) (KeepsSurroundings.refl s) h

/-- Settles O52, by the packaged induction over the nested commands (`exec_keeps`). -/
theorem commandsKeepSurroundings : Obligations.CommandsKeepSurroundings := by
  intro i s t hrun
  obtain ⟨hbuild, hinbox, ⟨more, hmore⟩, hmark⟩ := exec_keepsSurroundings hrun
  exact ⟨hbuild, hinbox, ⟨more, hmore.symm⟩, hmark⟩

end Machine
end Sys2Proof
end

section
/-!
PROOFS. The registers (10_state.md): the invariant of every step, and which command writes which register.
-/

namespace Sys2Proof
namespace Machine

/-! ## The invariant of the registers (R29, R30) -/

/-- The PIB that reset writes is in range (R47). -/
theorem Pib.zero_inRange : Pib.zero.inRange := ⟨Nat.zero_le _, Nat.zero_le _, Nat.zero_le _⟩

/-- The reset input establishes the invariant in any state (R260). -/
theorem State.applyReset_inv (s : State) : s.applyReset.inv := ⟨Pib.zero_inRange, Nat.zero_le _⟩

/-- Settles O9: the PIB is all 0 and the queue empty. -/
theorem invariantAtReset : Obligations.InvariantAtReset := ⟨Pib.zero_inRange, Nat.zero_le _⟩

/-- Every shared write keeps the invariant: SET.req stores only what it has tested (R207), the queue grows
only while it is not full (R221), and no other write touches the PIB or makes the queue longer. -/
theorem closed_inv : Closed (fun _ => false) State.inv where
  log _ _ h := h
  ghost _ _ _ h := h
  reply _ h := h
  sample s h := by simpa [State.inv] using h
  trx _ _ _ h := h
  dsn _ _ h := h
  status _ _ _ h := h
  handle _ _ _ h := h
  bind inst _ _ _ _ _ h := by cases inst <;> exact h
  pib _ _ _ _ haccepts h :=
    have ⟨hchannel, hpower, hcca⟩ := h.1
    ⟨Pib.store_bounds haccepts hchannel hpower hcca, h.2⟩
  add _ s e hnotFull h := by
    have hlt : s.ptq.length < Config.ptqSlots := Nat.lt_of_le_of_ne h.2 hnotFull
    exact ⟨h.1, by simpa using hlt⟩
  remove _ s _ q hremoved h := by
    have hlength : s.ptq.length = q.length + 1 := removeFirst_length hremoved
    exact ⟨h.1, Nat.le_trans (by simp [hlength]) h.2⟩

/-- A presented octet string keeps what every shared write keeps, whether it is a command or not. -/
theorem runOctets_keeps {P : State → Prop} (hP : Closed (fun _ => false) P) (octets : Octets) :
    Keeps P (runOctets exec octets) := by
  intro s t hs ht
  unfold runOctets at ht
  split at ht
  · exact exec_keeps hP rfl (Env.avoids_nothing _) hs ht
  · exact runRejected_keeps hP _ s t hs ht

/-- What the shared writes, the reset input and the taking of an input keep, every step keeps. -/
theorem step_keeps {P : State → Prop} (hP : Closed (fun _ => false) P)
    (hdrop : ∀ s, P s → P s.dropInput) (hreset : ∀ s, P s → P s.applyReset) : Keeps P step := by
  intro s t hs ht
  unfold step at ht
  split at ht
  · cases ht; exact hs
  · cases ht; exact hreset _ (hdrop _ hs)
  · exact runOctets_keeps hP _ _ _ (hdrop _ hs) ht

/-- Settles O10, by the packaged induction over a step and its nested commands (`step_keeps`). -/
theorem invariantKeptByStep : Obligations.InvariantKeptByStep := fun s t hs ht =>
  step_keeps closed_inv (fun _ h => h) (fun s _ => s.applyReset_inv) s t hs ht

/-! ## Which command writes which register (R21 to R30) -/

/-- A register is as before when `kind` shuts out every command that writes it. -/
structure KeepsUnwritten (kind : Opcode → Bool) (before after : Registers) : Prop where
  trxState : kind .setTrxCnf = true → after.trxState = before.trxState
  dsn : kind .encodeFrame = true → kind .dataReq = true → after.dsn = before.dsn
  dataStatus : kind .dataReq = true → kind .dataCnf = true → after.dataStatus = before.dataStatus
  txHandle : kind .dataReq = true → after.txHandle = before.txHandle
  upper : (∀ svc role, kind (.bind .upper svc role) = true) → after.upper = before.upper
  lower : (∀ svc role, kind (.bind .lower svc role) = true) → after.lower = before.lower
  pib : kind .setReq = true → after.pib = before.pib
  ptq : kind .ptqAdd = true → kind .ptqRemove = true → kind .dataReq = true → kind .dataCnf = true →
    after.ptq = before.ptq

theorem State.sampleTime_registers (s : State) : s.sampleTime.2.registers = s.registers := by
  simp [State.registers]

namespace KeepsUnwritten

theorem refl (kind : Opcode → Bool) (r : Registers) : KeepsUnwritten kind r r :=
  ⟨fun _ => rfl, fun _ _ => rfl, fun _ _ => rfl, fun _ => rfl, fun _ => rfl, fun _ => rfl, fun _ => rfl,
    fun _ _ _ _ => rfl⟩

/-- A register write happens only in a command that is not shut out, and is one the register's clause
names. -/
theorem closed (kind : Opcode → Bool) (r : Registers) :
    Closed kind (fun t => KeepsUnwritten kind r t.registers) where
  log _ _ h := h
  ghost _ _ _ h := h
  reply _ h := h
  sample s h := s.sampleTime_registers ▸ h
  trx hk _ _ h := { h with trxState := by simp [hk] }
  dsn hk _ h := { h with dsn := by rcases hk with hk | hk <;> simp [hk] }
  status hk _ _ h := { h with dataStatus := by rcases hk with hk | hk <;> simp [hk] }
  handle hk _ _ h := { h with txHandle := by simp [hk] }
  bind inst svc role hk _ _ h := by
    cases inst with
    | upper => exact { h with upper := fun hall => absurd (hall svc role) (by simp [hk]) }
    | lower => exact { h with lower := fun hall => absurd (hall svc role) (by simp [hk]) }
  pib hk _ _ _ _ h := { h with pib := by simp [hk] }
  add hk _ _ _ h := { h with ptq := by rcases hk with hk | hk <;> simp [hk] }
  remove hk _ _ _ _ h := { h with ptq := by rcases hk with hk | hk <;> simp [hk] }

end KeepsUnwritten

/-- A command that is not shut out, with handlers that issue none of the commands shut out, keeps every
register that only these write. -/
theorem exec_keepsUnwritten {kind : Opcode → Bool} {i : Instr} {s t : State} (hi : kind i.opcode = false)
    (havoids : s.env.avoids kind) (hrun : exec i s = .next t) :
    KeepsUnwritten kind s.registers t.registers :=
  exec_keeps (KeepsUnwritten.closed kind s.registers) hi havoids (KeepsUnwritten.refl kind _) hrun

/-- Handlers that avoid two kinds of commands avoid both at once. -/
theorem Env.avoids_or {kind kind' : Opcode → Bool} {e : Env} (h : e.avoids kind) (h' : e.avoids kind') :
    e.avoids (fun op => kind op || kind' op) := fun reply hreply c hc i rest hdecode => by
  simp [h reply hreply c hc i rest hdecode, h' reply hreply c hc i rest hdecode]

/-- ENCODE advances the sequence counter modulo 256 (R131). -/
theorem execEncodeFrame_dsn (r : EncodeRequest) (s : State) :
    ∃ t, exec (.encodeFrame r) s = .next t ∧ t.dsn.toNat = (s.dsn.toNat + 1) % 256 :=
  ⟨_, rfl, BitVec.toNat_add s.dsn 1#8⟩

/-- Settles O47: ENCODE's own effect, and the writers of `dsn` (`exec_keepsUnwritten`). -/
theorem onlyEncodingChangesSequenceCounter : Obligations.OnlyEncodingChangesSequenceCounter := by
  refine ⟨rfl, execEncodeFrame_dsn, fun i s t hencode hreq havoids hrun => ?_⟩
  exact (exec_keepsUnwritten (by simp [hencode, hreq]) havoids hrun).dsn (by simp) (by simp)

/-- Settles O48: only BIND writes a registry, so no slot reads differently. -/
theorem onlyBindChangesRegistry : Obligations.OnlyBindChangesRegistry := by
  intro i s t hi havoids hrun
  have hkeeps := exec_keepsUnwritten hi havoids hrun
  exact State.slot_of_registries (hkeeps.upper fun _ _ => rfl) (hkeeps.lower fun _ _ => rfl)

/-- Settles O49, by the writers of the PIB (`exec_keepsUnwritten`). -/
theorem onlySetRequestChangesPib : Obligations.OnlySetRequestChangesPib := by
  intro i s t hi havoids hrun
  exact (exec_keepsUnwritten (by simp [hi]) havoids hrun).pib (by simp)

/-- Settles O50, by the writers of the queue (`exec_keepsUnwritten`). -/
theorem onlyQueueCommandsChangeQueue : Obligations.OnlyQueueCommandsChangeQueue := by
  intro i s t hadd hremove hreq hcnf havoids hrun
  exact (exec_keepsUnwritten (by simp [hadd, hremove, hreq, hcnf]) havoids hrun).ptq
    (by simp) (by simp) (by simp) (by simp)

/-- Settles O51, by the writers of `txHandle` and of `dataStatus` (`exec_keepsUnwritten`). -/
theorem onlyDataCommandsChangeDataRegisters : Obligations.OnlyDataCommandsChangeDataRegisters := by
  intro i s t hreq havoidsReq hrun
  refine ⟨(exec_keepsUnwritten (by simp [hreq]) havoidsReq hrun).txHandle (by simp), ?_⟩
  intro hcnf havoidsCnf
  exact (exec_keepsUnwritten (by simp [hreq, hcnf]) (Env.avoids_or havoidsReq havoidsCnf) hrun).dataStatus
    (by simp) (by simp)

end Machine
end Sys2Proof
end

section
/-!
PROOFS. The slots that no primitive uses (10_state.md R26; D38): binding one of them commutes with every
command but BIND.
-/

namespace Sys2Proof
namespace Machine

/-! ## Binding a slot commutes with the other writes -/

section writes
variable (s : State) (inst : Inst) (svc : Svc) (role : Role) (h : Handler)

theorem State.complete_bindSlot (c : Completion) :
    (s.bindSlot inst svc role h).complete c = (s.complete c).bindSlot inst svc role h := by
  cases inst <;> rfl

theorem State.noteRequest_bindSlot (v : Svc) :
    (s.bindSlot inst svc role h).noteRequest v = (s.noteRequest v).bindSlot inst svc role h := by
  cases inst <;> rfl

theorem State.beginConfirm_bindSlot (v : Svc) :
    (s.bindSlot inst svc role h).beginConfirm v = (s.beginConfirm v).bindSlot inst svc role h := by
  cases inst <;> rfl

theorem State.endConfirm_bindSlot (v : Svc) (b : Bool) :
    (s.bindSlot inst svc role h).endConfirm v b = (s.endConfirm v b).bindSlot inst svc role h := by
  cases inst <;> rfl

theorem State.emit_bindSlot (call : OutCall) :
    (s.bindSlot inst svc role h).emit call = (s.emit call).bindSlot inst svc role h := by
  unfold State.emit
  cases call.args.role <;> cases inst <;> rfl

theorem State.setDataStatus_bindSlot (v : Status) :
    (s.bindSlot inst svc role h).setDataStatus v = (s.setDataStatus v).bindSlot inst svc role h := by
  cases inst <;> rfl

theorem State.setTxHandle_bindSlot (v : BitVec 8) :
    (s.bindSlot inst svc role h).setTxHandle v = (s.setTxHandle v).bindSlot inst svc role h := by
  cases inst <;> rfl

theorem State.setDsn_bindSlot (v : BitVec 8) :
    (s.bindSlot inst svc role h).setDsn v = (s.setDsn v).bindSlot inst svc role h := by
  cases inst <;> rfl

theorem State.setPib_bindSlot (v : Pib) :
    (s.bindSlot inst svc role h).setPib v = (s.setPib v).bindSlot inst svc role h := by
  cases inst <;> rfl

theorem State.setPtq_bindSlot (v : List PtqEntry) :
    (s.bindSlot inst svc role h).setPtq v = (s.setPtq v).bindSlot inst svc role h := by
  cases inst <;> rfl

theorem State.trackStatus_bindSlot (v : Status) :
    (s.bindSlot inst svc role h).trackStatus v = (s.trackStatus v).bindSlot inst svc role h := by
  unfold State.trackStatus
  cases TrxState.ofStatus v <;> cases inst <;> rfl

theorem State.sampleTime_bindSlot :
    (s.bindSlot inst svc role h).sampleTime =
      (s.sampleTime.1, s.sampleTime.2.bindSlot inst svc role h) := by
  unfold State.sampleTime
  rw [State.bindSlot_env]
  cases s.env.timeInput <;> cases inst <;> rfl

theorem ptqAddOp_bindSlot (handle : Byte) (kind : TxKind) (ack : Bool) :
    ptqAddOp handle kind ack (s.bindSlot inst svc role h) =
      ((ptqAddOp handle kind ack s).1, (ptqAddOp handle kind ack s).2.bindSlot inst svc role h) := by
  simp only [ptqAddOp_eq, State.bindSlot_ptq, State.sampleTime_bindSlot, State.setPtq_bindSlot]
  split <;> rfl

theorem ptqRemoveOp_bindSlot (handle : Byte) :
    ptqRemoveOp handle (s.bindSlot inst svc role h) =
      ((ptqRemoveOp handle s).1, (ptqRemoveOp handle s).2.bindSlot inst svc role h) := by
  simp only [ptqRemoveOp, State.bindSlot_ptq, State.setPtq_bindSlot]
  split <;> rfl

theorem encodeOp_bindSlot (r : EncodeRequest) :
    encodeOp r (s.bindSlot inst svc role h) =
      ((encodeOp r s).1, (encodeOp r s).2.bindSlot inst svc role h) := by
  simp only [encodeOp, State.bindSlot_build, State.bindSlot_dsn, State.setDsn_bindSlot]

end writes

/-! ## Parts of a command that do not see the binding -/

/-- A part of a command does the same after an Indication slot of the service is bound as before it, and
the slot then holds the handler. -/
def IgnoresIndication (inst : Inst) (svc : Svc) (h : Handler) (f : State → Result) : Prop :=
  ∀ s : State, f (s.bindSlot inst svc .indication h) =
    (f s).andThen fun t => .next (t.bindSlot inst svc .indication h)

/-- The only Indication that is called is the Data service's (R26, R104). -/
theorem OutArgs.svc_of_indication {a : OutArgs} (h : a.role = .indication) : a.svc = .data := by
  cases a with
  | dataIndication ind => rfl
  | _ => cases h

namespace IgnoresIndication

variable {inst : Inst} {svc : Svc} {h : Handler}

theorem complete (c : Completion) : IgnoresIndication inst svc h fun s => .next (s.complete c) :=
  fun s => by simp only [State.complete_bindSlot, andThen_next]

theorem finish : IgnoresIndication inst svc h finish := complete .none

/-- Going on with `k` after a part whose answer the binding was put off to. -/
theorem andThen {k : State → Result} (hk : IgnoresIndication inst svc h k) (r : Result) :
    (r.andThen fun t => .next (t.bindSlot inst svc .indication h)).andThen k =
      (r.andThen k).andThen fun t => .next (t.bindSlot inst svc .indication h) := by
  cases r with
  | next m => exact hk m
  | fault e => rfl
  | refused e => rfl

theorem whileConfirming {v : Svc} {b : State → Result} (hb : IgnoresIndication inst svc h b) :
    IgnoresIndication inst svc h (whileConfirming v b) := fun s => by
  have hend : IgnoresIndication inst svc h fun t =>
      Machine.finish (t.endConfirm v (s.ghost.confirming.bit v)) := fun t => by
    simp only [State.endConfirm_bindSlot]
    exact finish _
  simp only [Machine.whileConfirming, State.beginConfirm_bindSlot, State.bindSlot_ghost]
  rw [hb, hend.andThen]

variable (hsvc : svc ≠ .data)
include hsvc

/-- Every slot but a service's Indication, and the Data service's Indication, reads as before. -/
theorem slot_eq (s : State) (i : Inst) {v : Svc} {r : Role} (hused : r = .indication → v = .data) :
    (s.bindSlot inst svc .indication h).slot i v r = s.slot i v r := by
  rw [State.slot_bindSlot, if_neg]
  rintro ⟨-, rfl, rfl⟩
  exact hsvc (hused rfl)

theorem gated {i : Inst} {v : Svc} {r : Role} {b : State → Result}
    (hused : r = .indication → v = .data) (hb : IgnoresIndication inst svc h b) :
    IgnoresIndication inst svc h (gated i v r b) := fun s => by
  unfold Machine.gated
  rw [slot_eq hsvc s i hused]
  split
  · exact finish s
  · exact hb s

variable {f : Invoke} (hf : ∀ c, IgnoresIndication inst svc h (f c))
include hf

theorem callIfPresent (a : OutArgs) : IgnoresIndication inst svc h (callIfPresent f a) := fun s => by
  unfold Machine.callIfPresent
  rw [slot_eq hsvc s a.inst OutArgs.svc_of_indication]
  dsimp only
  split
  · rfl
  · exact hf _ s

theorem callAndFinish (a : OutArgs) : IgnoresIndication inst svc h (callAndFinish f a) := fun s => by
  unfold Machine.callAndFinish
  rw [callIfPresent hsvc hf a s, finish.andThen]

theorem confirmAndFinish (a : OutArgs) : IgnoresIndication inst svc h (confirmAndFinish f a) :=
  whileConfirming (callIfPresent hsvc hf a)

theorem setTrxBody (v : Status) : IgnoresIndication inst svc h (setTrxBody f v) := fun s => by
  unfold Machine.setTrxBody
  rw [State.noteRequest_bindSlot]
  dsimp only
  split
  · exact callIfPresent hsvc hf _ _
  · exact callIfPresent hsvc hf _ _

theorem dataRefuse (v : Status) : IgnoresIndication inst svc h (dataRefuse f v) := fun s => by
  unfold Machine.dataRefuse
  rw [State.setDataStatus_bindSlot, callAndFinish hsvc hf]

theorem dataAfterSetTrx (r : EncodeRequest) :
    IgnoresIndication inst svc h (dataAfterSetTrx f r) := fun s => by
  unfold Machine.dataAfterSetTrx
  rw [State.bindSlot_trxState]
  split
  · simp only [dataForward, encodeOp_bindSlot, State.setTxHandle_bindSlot, ptqAddOp_bindSlot,
      State.setDataStatus_bindSlot]
    exact callAndFinish hsvc hf _ _
  · exact finish s

theorem dataCnfAfterSetTrx (v : Status) :
    IgnoresIndication inst svc h (dataCnfAfterSetTrx f v) := fun s => by
  simp only [Machine.dataCnfAfterSetTrx, State.bindSlot_txHandle, ptqRemoveOp_bindSlot,
    State.setDataStatus_bindSlot]
  exact callIfPresent hsvc hf _ _

/-- Every command but BIND ignores the slot, if its handlers do. -/
theorem runInstr (i : Instr) (hi : isBind i.opcode = false) :
    IgnoresIndication inst svc h (runInstr f i) := by
  have hcall := callAndFinish hsvc hf
  cases i with
  | dataReq r =>
    refine gated hsvc nofun fun s => ?_
    simp only [State.noteRequest_bindSlot, State.bindSlot_trxState]
    split
    · exact dataRefuse hsvc hf _ _
    · split
      · exact dataRefuse hsvc hf _ _
      · rw [setTrxBody hsvc hf, (dataAfterSetTrx hsvc hf r).andThen]
  | ccaReq =>
    refine gated hsvc nofun fun s => ?_
    simp only [State.noteRequest_bindSlot, State.bindSlot_trxState]
    split
    · exact hcall _ _
    · exact hcall _ _
  | edReq =>
    refine gated hsvc nofun fun s => ?_
    simp only [State.noteRequest_bindSlot, State.bindSlot_trxState]
    split
    · exact hcall _ _
    · exact hcall _ _
  | getReq attr =>
    refine gated hsvc nofun fun s => ?_
    simp only [State.noteRequest_bindSlot]
    split
    · exact hcall _ _
    · exact hcall _ _
  | setTrxReq target =>
    refine gated hsvc nofun fun s => ?_
    rw [setTrxBody hsvc hf, finish.andThen]
  | setReq attr value =>
    refine gated hsvc nofun fun s => ?_
    simp only [State.noteRequest_bindSlot, State.bindSlot_pib, State.setPib_bindSlot]
    split
    · exact hcall _ _
    · split
      · exact hcall _ _
      · exact hcall _ _
  | dataCnf status =>
    refine gated hsvc nofun (whileConfirming fun s => ?_)
    rw [setTrxBody hsvc hf, (dataCnfAfterSetTrx hsvc hf status).andThen]
  | dataInd rxbuf declaredLength =>
    refine gated hsvc (fun _ => rfl) fun s => ?_
    simp only [State.bindSlot_build]
    split
    · exact complete _ s
    · rw [callIfPresent hsvc hf, (complete .ok).andThen]
  | ccaCnf status => exact gated hsvc nofun (confirmAndFinish hsvc hf _)
  | edCnf status energyLevel => exact gated hsvc nofun (confirmAndFinish hsvc hf _)
  | getCnf status attr value => exact gated hsvc nofun (confirmAndFinish hsvc hf _)
  | setTrxCnf status =>
    refine gated hsvc nofun fun s => ?_
    rw [State.trackStatus_bindSlot]
    exact confirmAndFinish hsvc hf _ _
  | setCnf status attr => exact gated hsvc nofun (confirmAndFinish hsvc hf _)
  | bindU svc role handler => cases hi
  | bindL svc role handler => cases hi
  | decodeFrame rxbuf declaredLength =>
    intro s
    simp only [Machine.runInstr, execDecodeFrame, State.bindSlot_build]
    exact complete _ s
  | encodeFrame r =>
    intro s
    simp only [Machine.runInstr, execEncodeFrame, encodeOp_bindSlot]
    exact complete _ _
  | ptqAdd handle kind ackRequired =>
    intro s
    simp only [Machine.runInstr, execPtqAdd, ptqAddOp_bindSlot]
    exact complete _ _
  | ptqRemove handle =>
    intro s
    simp only [Machine.runInstr, execPtqRemove, ptqRemoveOp_bindSlot]
    exact complete _ _

end IgnoresIndication

/-- A handler at depth 0 only leaves its event, whatever is bound. -/
theorem runHandler_zero_ignoresIndication (inst : Inst) (svc : Svc) (h : Handler) (call : OutCall) :
    IgnoresIndication inst svc h (runHandler 0 call) := fun s => by
  simp only [runHandler, State.emit_bindSlot, andThen_next]

/-- With no reply left, a command's handlers run at depth 0. -/
theorem exec_quiet {s : State} (h : s.quiet) (i : Instr) : exec i s = runInstr (runHandler 0) i s := by
  have hreplies : s.env.replies = [] := h
  exact (runInstr_depth (by simp [hreplies])).symm

/-- Settles O12: with quiet handlers a command runs over handlers that only leave their events, and over
these every command but BIND ignores the slot. -/
theorem unusedSlotsHaveNoEffect : Obligations.UnusedSlotsHaveNoEffect := by
  intro inst svc handler i s hsvc hquiet hi
  have hquiet' : (s.bindSlot inst svc .indication handler).quiet :=
    (congrArg Env.replies (s.bindSlot_env inst svc .indication handler)).trans hquiet
  rw [exec_quiet hquiet', exec_quiet hquiet]
  exact IgnoresIndication.runInstr hsvc (runHandler_zero_ignoresIndication inst svc handler) i hi s

end Machine
end Sys2Proof
end

section
/-!
PROOFS. The state read port (10_state.md R45).
-/

namespace Sys2Proof

/-! ## Service and role numbers (R96) -/

theorem Svc.ofNumber_number (svc : Svc) : Svc.ofNumber svc.number = some svc := by cases svc <;> rfl

theorem Role.ofNumber_number (role : Role) : Role.ofNumber role.number = some role := by
  cases role <;> rfl

theorem Svc.number_lt (svc : Svc) : svc.number < 6 := by cases svc <;> decide

theorem Role.number_lt (role : Role) : role.number < 3 := by cases role <;> decide

theorem Inst.number_le (inst : Inst) : inst.number ≤ 1 := by cases inst <;> decide

namespace Machine

/-! ## What the port shows under each number (D36) -/

/-- The slots are numbered by registry (U, then L), then by service, then by role. -/
theorem State.slotByNumber_number (s : State) (inst : Inst) (svc : Svc) (role : Role) :
    s.slotByNumber (18 * inst.number + 3 * svc.number + role.number) = s.slot inst svc role := by
  have hsvc := svc.number_lt
  have hrole := role.number_lt
  have hrow : (18 * inst.number + 3 * svc.number + role.number) % 18 / 3 = svc.number := by omega
  have hcolumn : (18 * inst.number + 3 * svc.number + role.number) % 3 = role.number := by omega
  simp only [State.slotByNumber, hrow, hcolumn, Svc.ofNumber_number, Role.ofNumber_number]
  cases inst with
  | upper => rw [if_pos (by simp only [Inst.number]; omega)]
  | lower => rw [if_neg (by simp only [Inst.number]; omega)]

/-- The three fields of a packed entry do not overlap, so its value is their sum. -/
theorem PtqEntry.packed_toNat (e : PtqEntry) :
    e.packed.toNat =
      e.handle.toNat + (match e.kind with | .data => 0 | .command => 256) + 512 * e.ackRequired.toNat := by
  have hhandle : e.handle.toNat % 4294967296 = e.handle.toNat := Nat.mod_eq_of_lt (by omega)
  have hfields (flags : Nat) : e.handle.toNat ||| 256 * flags = e.handle.toNat + 256 * flags := by
    rw [Nat.or_comm, Nat.add_comm]
    exact (Nat.two_pow_add_eq_or_of_lt e.handle.isLt flags).symm
  unfold PtqEntry.packed
  cases e.kind <;> cases e.ackRequired <;> simp [hhandle, Nat.or_assoc]
  case data.true => exact hfields 2
  case command.false => exact hfields 1
  case command.true => exact hfields 3

/-- A packed queue entry, or 0 where there is no valid entry. -/
theorem State.readPort_entry (s : State) {i : Nat} (hi : i < 10) :
    s.readPort (0x30 + i) = (s.ptq[i]?.map PtqEntry.packed).getD 0#32 := by
  simp (disch := omega) only [State.readPort, if_neg, if_pos, Nat.add_sub_cancel_left]
  cases s.ptq[i]? <;> rfl

/-- A queue entry's time stamp, or 0 where there is no valid entry. -/
theorem State.readPort_timestamp (s : State) {i : Nat} (hi : i < 10) :
    s.readPort (0x40 + i) = (s.ptq[i]?.map PtqEntry.timestamp).getD 0#32 := by
  simp (disch := omega) only [State.readPort, if_neg, if_pos, Nat.add_sub_cancel_left]
  cases s.ptq[i]? <;> rfl

theorem State.readPort_slot (s : State) {n : Nat} (hn : n < 36) :
    s.readPort (0x80 + n) = s.slotByNumber n := by
  simp (disch := omega) only [State.readPort, if_neg, if_pos, Nat.add_sub_cancel_left]

/-- The numbers of the registers, the queue entries and the slots. -/
def readPortAssigned (n : Nat) : Prop :=
  n ≤ 0x03 ∨ (0x10 ≤ n ∧ n ≤ 0x13) ∨ n = 0x20 ∨ (0x30 ≤ n ∧ n ≤ 0x39) ∨ (0x40 ≤ n ∧ n ≤ 0x49) ∨
  (0x80 ≤ n ∧ n ≤ 0xA3)

/-- Every other number reads 0. -/
theorem State.readPort_unassigned (s : State) {n : Nat} (hn : ¬ readPortAssigned n) :
    s.readPort n = 0#32 := by
  unfold readPortAssigned at hn
  simp (disch := omega) only [State.readPort, if_neg]

/-- Settles O54: the single registers are read off the definition, the queue, the slots and the gaps are
the lemmas above. -/
theorem readPortShowsRegisters : Obligations.ReadPortShowsRegisters := by
  intro s hbound
  refine ⟨rfl, rfl, rfl, rfl, rfl, rfl, rfl, rfl, ?count, ?entries, ?free, ?slots, ?gaps⟩
  case count =>
    have hlt : s.ptqCount < 2 ^ 32 := Nat.lt_of_le_of_lt hbound (by decide)
    exact Nat.mod_eq_of_lt hlt
  case entries =>
    intro i hi
    rw [s.readPort_entry (by omega), s.readPort_timestamp (by omega), List.getElem?_eq_getElem hi]
    exact ⟨PtqEntry.packed_toNat _, rfl⟩
  case free =>
    intro i hfree hi
    rw [s.readPort_entry hi, s.readPort_timestamp hi, List.getElem?_eq_none hfree]
    exact ⟨rfl, rfl⟩
  case slots =>
    intro inst svc role
    have hinst := inst.number_le
    have hsvc := svc.number_lt
    have hrole := role.number_lt
    rw [Nat.add_assoc, Nat.add_assoc, s.readPort_slot (by omega), ← Nat.add_assoc,
      s.slotByNumber_number]
  case gaps =>
    refine ⟨?_, ?_, ?_, ?_, ?_, fun n hafter => ?last⟩
    case last => exact s.readPort_unassigned (by unfold readPortAssigned; omega)
    all_goals
      intro n hafter hbefore
      exact s.readPort_unassigned (by unfold readPortAssigned; omega)

end Machine
end Sys2Proof
end

section
/-!
PROOFS. The sizes of what ENCODE and the PPDU wrapper write (20_memory.md R50; D41).
-/

namespace Sys2Proof
namespace Machine

/-! ## The longest header (R77, R80) -/

/-- The longest destination is a PAN identifier and an extended address. -/
theorem dstFieldsLen_le (mode : AddrMode) : dstFieldsLen mode ≤ 10 := by cases mode <;> decide

/-- The longest source is the same, with its own PAN identifier. -/
theorem srcFieldsLen_le (mode : AddrMode) (intraPan : Bool) : srcFieldsLen mode intraPan ≤ 10 := by
  cases mode <;> cases intraPan <;> decide

/-- Frame control, sequence number and the two longest ends. -/
theorem headerLength_le (dst src : AddrMode) (intraPan : Bool) : headerLength dst src intraPan ≤ 23 := by
  have hdst := dstFieldsLen_le dst
  have hsrc := srcFieldsLen_le src intraPan
  unfold headerLength
  omega

/-! ## The lengths of the footer, the MPDU and the PPDU (R134, R135, R92) -/

@[simp] theorem encodeFooter_length (manualFcs : Bool) (fcs16 : Octets → BitVec 16) (body : Octets) :
    (encodeFooter manualFcs fcs16 body).length = if manualFcs then 2 else 0 := by
  cases manualFcs with
  | false => rfl
  | true => exact octetsOf_length 2 _

@[simp] theorem encodeMpdu_length (manualFcs : Bool) (fcs16 : Octets → BitVec 16) (dsn : BitVec 8)
    (r : EncodeRequest) :
    (encodeMpdu manualFcs fcs16 dsn r).length =
      headerLength (AddrMode.norm r.dstMode) (AddrMode.norm r.srcMode) r.intraPan + r.payload.length +
        if manualFcs then 2 else 0 := by
  simp [encodeMpdu, Nat.add_assoc]

/-- Whatever the addressing modes and the build, ENCODE adds at most 25 octets to the payload. -/
theorem encodeMpdu_length_le (manualFcs : Bool) (fcs16 : Octets → BitVec 16) (dsn : BitVec 8)
    (r : EncodeRequest) : (encodeMpdu manualFcs fcs16 dsn r).length ≤ r.payload.length + 25 := by
  have hheader := headerLength_le (AddrMode.norm r.dstMode) (AddrMode.norm r.srcMode) r.intraPan
  rw [encodeMpdu_length]
  split <;> omega

@[simp] theorem ppduWrap_length (psdu : Octets) : (ppduWrap psdu).length = psdu.length + 6 := rfl

/-- Settles O41: a header of at most 23 octets and a footer of at most 2 around the payload, and 6 octets
of preamble, delimiter and length before a PSDU. -/
theorem encodedSizesFitBuffers : Obligations.EncodedSizesFitBuffers := by
  intro manualFcs fcs16 dsn r
  have hmpdu := encodeMpdu_length_le manualFcs fcs16 dsn r
  have hppdu := ppduWrap_length (encodeMpdu manualFcs fcs16 dsn r)
  refine ⟨fun hpayload => ?_, fun hpayload => ⟨?_, ?_⟩⟩ <;> omega

end Machine
end Sys2Proof
end

section
/-!
PROOFS. The octets of commands and frames (30_encoding.md): the command decoder and encoder are inverse, the
illegal command bytes, the bits of the frame control word, and the physical frame.
-/

namespace Sys2Proof

/-! ## Operand records (R97) -/

/-- The operand reader of a command's row takes exactly what the encoder wrote. -/
theorem readInstr_encodeOperands {i : Instr} (h : i.wellFormed = true) (rest : Octets) :
    readInstr i.opcode (encodeOperands i ++ rest) = .ok (i, rest) := by
  cases i with
  | dataReq | encodeFrame =>
    simp only [Instr.opcode, readInstr, encodeOperands, readRequest_append _ _ h, bind, Except.bind]
  | dataInd | decodeFrame =>
    simp only [Instr.opcode, readInstr, encodeOperands, readRxBuf_append _ _ _ h, bind, Except.bind]
  | _ =>
    simp only [Instr.opcode, readInstr, encodeOperands, List.nil_append, List.append_assoc, read8_append,
      read32_append, read1_append, readKind_append, bind, Except.bind]

/-- Where the operand reader of a row succeeds, it has read a well-formed command of that row. -/
theorem readInstr_ok {op : Opcode} {bs rest : Octets} {i : Instr} (h : readInstr op bs = .ok (i, rest)) :
    i.opcode = op ∧ i.wellFormed = true ∧ encodeOperands i ++ rest = bs := by
  cases op with
  | ccaReq | edReq =>
    cases h
    exact ⟨rfl, rfl, rfl⟩
  | getReq | setTrxReq | dataCnf | ccaCnf | setTrxCnf | ptqRemove =>
    obtain ⟨⟨v, _⟩, hv, h⟩ := commandBind_eq_ok.mp h
    cases h
    exact ⟨rfl, rfl, read8_ok hv⟩
  | edCnf | setCnf =>
    obtain ⟨⟨v, _⟩, hv, h⟩ := commandBind_eq_ok.mp h
    obtain ⟨⟨w, _⟩, hw, h⟩ := commandBind_eq_ok.mp h
    cases h
    refine ⟨rfl, rfl, ?_⟩
    simp only [encodeOperands, List.append_assoc, read8_ok hw, read8_ok hv]
  | setReq =>
    obtain ⟨⟨attr, _⟩, hattr, h⟩ := commandBind_eq_ok.mp h
    obtain ⟨⟨value, _⟩, hvalue, h⟩ := commandBind_eq_ok.mp h
    cases h
    refine ⟨rfl, rfl, ?_⟩
    simp only [encodeOperands, List.append_assoc, read32_ok hvalue, read8_ok hattr]
  | getCnf =>
    obtain ⟨⟨status, _⟩, hstatus, h⟩ := commandBind_eq_ok.mp h
    obtain ⟨⟨attr, _⟩, hattr, h⟩ := commandBind_eq_ok.mp h
    obtain ⟨⟨value, _⟩, hvalue, h⟩ := commandBind_eq_ok.mp h
    cases h
    refine ⟨rfl, rfl, ?_⟩
    simp only [encodeOperands, List.append_assoc, read32_ok hvalue, read8_ok hattr, read8_ok hstatus]
  | bind inst svc role =>
    cases inst with
    | upper | lower =>
      obtain ⟨⟨handler, _⟩, hhandler, h⟩ := commandBind_eq_ok.mp h
      cases h
      exact ⟨rfl, rfl, read32_ok hhandler⟩
  | dataReq | encodeFrame =>
    obtain ⟨⟨r, _⟩, hr, h⟩ := commandBind_eq_ok.mp h
    cases h
    exact ⟨rfl, readRequest_ok hr⟩
  | dataInd | decodeFrame =>
    obtain ⟨⟨rx, _⟩, hrx, h⟩ := commandBind_eq_ok.mp h
    cases h
    exact ⟨rfl, readRxBuf_ok hrx⟩
  | ptqAdd =>
    obtain ⟨⟨handle, _⟩, hhandle, h⟩ := commandBind_eq_ok.mp h
    obtain ⟨⟨kind, _⟩, hkind, h⟩ := commandBind_eq_ok.mp h
    obtain ⟨⟨ack, _⟩, hack, h⟩ := commandBind_eq_ok.mp h
    cases h
    refine ⟨rfl, rfl, ?_⟩
    simp only [encodeOperands, List.append_assoc, read1_ok hack, readKind_ok hkind, read8_ok hhandle]

/-! ## Whole commands -/

theorem decode_of_ofByte {cmd : Byte} {op : Opcode} (h : Opcode.ofByte cmd = some op) (bs : Octets) :
    decode (cmd :: bs) = readInstr op bs := by
  simp only [decode, h]

theorem decode_of_ofByte_none {cmd : Byte} (h : Opcode.ofByte cmd = none) (bs : Octets) :
    decode (cmd :: bs) = .error (.illegalCommand cmd) := by
  simp only [decode, h]

/-- Settles O1: the command byte selects the command's row, and the row's reader takes the operands. -/
theorem commandRoundTrip : Obligations.CommandRoundTrip := by
  intro i rest hwf
  calc decode (encode i ++ rest)
      = readInstr i.opcode (encodeOperands i ++ rest) := decode_of_ofByte (Opcode.ofByte_toByte _) _
    _ = .ok (i, rest) := readInstr_encodeOperands hwf rest

/-- Settles O2: the byte is the one of the row it selects, and the row's reader read what is encoded. -/
theorem decodedCommandReencodes : Obligations.DecodedCommandReencodes := by
  intro bs i rest h
  cases bs with
  | nil => cases h
  | cons cmd operands =>
    cases hop : Opcode.ofByte cmd with
    | none => rw [decode_of_ofByte_none hop] at h; cases h
    | some op =>
      rw [decode_of_ofByte hop] at h
      obtain ⟨rfl, hwf, hoperands⟩ := readInstr_ok h
      refine ⟨hwf, ?_⟩
      rw [encode, List.cons_append, Opcode.toByte_ofByte hop, hoperands]

/-- Settles O4: eight closed strings, run through the decoder. -/
theorem commandWordsOfTheTable : Obligations.CommandWordsOfTheTable := by
  refine ⟨?_, ?_, ?_, ?_, ?_, ?_, ?_, ?_⟩ <;> decide

/-! ## Operands never make a command byte illegal -/

/-- The outcome of a reader that rejects no command byte. -/
def NotIllegal {α : Type} (x : Except CommandError α) : Prop :=
  ∀ cmd, x ≠ .error (.illegalCommand cmd)

namespace NotIllegal

theorem ok {α : Type} (a : α) : NotIllegal (.ok a) := fun _ => nofun

theorem outOfRange {α : Type} : NotIllegal (.error .operandOutOfRange : Except CommandError α) :=
  fun _ => nofun

theorem bind {α β : Type} {x : Except CommandError α} {k : α → Except CommandError β}
    (hx : NotIllegal x) (hk : ∀ a, NotIllegal (k a)) : NotIllegal (x >>= k) := by
  cases x with
  | error e => intro cmd h; cases h; exact hx cmd rfl
  | ok a => exact hk a

theorem readOctets (n : Nat) (bs : Octets) : NotIllegal (readOctets n bs) := by
  rw [readOctets_eq]
  split <;> exact fun _ => nofun

theorem readValue (n : Nat) (bs : Octets) : NotIllegal (readValue n bs) :=
  (readOctets n bs).bind fun _ => ok _

theorem read8 (bs : Octets) : NotIllegal (read8 bs) := (readValue 1 bs).bind fun _ => ok _

theorem read16 (bs : Octets) : NotIllegal (read16 bs) := (readValue 2 bs).bind fun _ => ok _

theorem read32 (bs : Octets) : NotIllegal (read32 bs) := (readValue 4 bs).bind fun _ => ok _

theorem read64 (bs : Octets) : NotIllegal (read64 bs) := (readValue 8 bs).bind fun _ => ok _

theorem read4 (bs : Octets) : NotIllegal (read4 bs) :=
  (readValue 1 bs).bind fun (v, bs) => by
    dsimp only
    split
    · exact ok _
    · exact outOfRange

theorem read1 (bs : Octets) : NotIllegal (read1 bs) :=
  (readValue 1 bs).bind fun (v, bs) => by
    dsimp only
    split
    · exact ok _
    · exact ok _
    · exact outOfRange

theorem readKind (bs : Octets) : NotIllegal (readKind bs) := (read1 bs).bind fun _ => ok _

theorem readRequest (bs : Octets) : NotIllegal (readRequest bs) :=
  (read8 bs).bind fun _ => (read8 _).bind fun _ => (read16 _).bind fun _ => (read64 _).bind fun _ =>
  (read8 _).bind fun _ => (read16 _).bind fun _ => (read64 _).bind fun _ => (read4 _).bind fun _ =>
  (read1 _).bind fun _ => (readValue 1 _).bind fun _ => (readOctets _ _).bind fun _ => ok _

theorem readRxBuf (bs : Octets) : NotIllegal (readRxBuf bs) :=
  (readValue 2 bs).bind fun (v, bs) => by
    dsimp only
    split
    · exact (read8 bs).bind fun _ => (readOctets v _).bind fun _ => ok _
    · exact outOfRange

theorem readInstr (op : Opcode) (bs : Octets) : NotIllegal (readInstr op bs) := by
  cases op with
  | ccaReq | edReq => exact ok _
  | getReq | setTrxReq | dataCnf | ccaCnf | setTrxCnf | ptqRemove => exact (read8 bs).bind fun _ => ok _
  | edCnf | setCnf => exact (read8 bs).bind fun _ => (read8 _).bind fun _ => ok _
  | setReq => exact (read8 bs).bind fun _ => (read32 _).bind fun _ => ok _
  | getCnf =>
    exact (read8 bs).bind fun _ => (read8 _).bind fun _ => (read32 _).bind fun _ => ok _
  | bind inst svc role =>
    cases inst with
    | upper | lower => exact (read32 bs).bind fun _ => ok _
  | dataReq | encodeFrame => exact (readRequest bs).bind fun _ => ok _
  | dataInd | decodeFrame => exact (readRxBuf bs).bind fun _ => ok _
  | ptqAdd =>
    exact (read8 bs).bind fun _ => (readKind _).bind fun _ => (read1 _).bind fun _ => ok _

end NotIllegal

/-- A byte is rejected as illegal exactly when it selects no row, whatever operands follow it. -/
theorem decode_eq_illegal_iff (cmd : Byte) (operands : Octets) :
    decode (cmd :: operands) = .error (.illegalCommand cmd) ↔ Opcode.ofByte cmd = none := by
  cases hop : Opcode.ofByte cmd with
  | none => exact iff_of_true (decode_of_ofByte_none hop operands) rfl
  | some op =>
    rw [decode_of_ofByte hop]
    exact iff_of_false (NotIllegal.readInstr op operands cmd) nofun

/-! ## The fields of a command byte (R95) -/

theorem cmdClass_eq (cmd : Byte) : cmdClass cmd = cmd.toNat / 32 % 4 := by
  simp [cmdClass, Nat.shiftRight_eq_div_pow]

theorem cmdSvc_eq (cmd : Byte) : cmdSvc cmd = cmd.toNat / 4 % 8 := by
  simp [cmdSvc, Nat.shiftRight_eq_div_pow]

theorem cmdRole_eq (cmd : Byte) : cmdRole cmd = cmd.toNat % 4 := by
  simp [cmdRole]

theorem cmdSide_number (cmd : Byte) : (cmdSide cmd).number = cmd.toNat / 128 := by
  have hcmd := cmd.isLt
  have hbit : cmd.getLsbD 7 = decide (128 ≤ cmd.toNat) :=
    cmd.msb_eq_getLsbD_last.symm.trans cmd.msb_eq_decide
  have hside : cmdSide cmd = if 128 ≤ cmd.toNat then .lower else .upper := by
    simp only [cmdSide, hbit, decide_eq_true_eq]
  rw [hside]
  split <;> simp only [Inst.number] <;> omega

/-! ## The bytes of each class that select no row (R96, R99) -/

theorem Svc.number_of_ofNumber {n : Nat} {svc : Svc} (h : Svc.ofNumber n = some svc) : svc.number = n := by
  unfold Svc.ofNumber at h
  split at h <;> cases h <;> rfl

theorem Role.number_of_ofNumber {n : Nat} {role : Role} (h : Role.ofNumber n = some role) :
    role.number = n := by
  unfold Role.ofNumber at h
  split at h <;> cases h <;> rfl

theorem Svc.ofNumber_eq_none_iff : (n : Nat) → (Svc.ofNumber n = none ↔ 5 < n)
  | 0 | 1 | 2 | 3 | 4 | 5 => by decide
  | _ + 6 => iff_of_true rfl (by omega)

theorem Role.ofNumber_eq_none_iff : (n : Nat) → (Role.ofNumber n = none ↔ 2 < n)
  | 0 | 1 | 2 => by decide
  | _ + 3 => iff_of_true rfl (by omega)

/-- The primitives a side may not issue (R99). -/
theorem Opcode.ofPrimitive_eq_none_iff (side : Inst) (svc : Svc) (role : Role) :
    Opcode.ofPrimitive side svc role = none ↔
      (side.number = 0 ∧ role.number ≠ 0) ∨
      (side.number = 1 ∧ (role.number = 0 ∨ (role.number = 2 ∧ svc.number ≠ 0))) := by
  cases side with
  | upper => cases role <;> simp [Opcode.ofPrimitive, Inst.number, Role.number]
  | lower =>
    cases role with
    | request | confirm => simp [Opcode.ofPrimitive, Inst.number, Role.number]
    | indication => cases svc <;> decide

/-- The unit operations there are not (R99). -/
theorem Opcode.ofUnit_eq_none_iff (side : Inst) (op : Nat) :
    Opcode.ofUnit side op = none ↔ 3 < op ∨ side.number = 1 := by
  cases side with
  | lower => exact iff_of_true rfl (.inr rfl)
  | upper =>
    match op with
    | 0 | 1 | 2 | 3 => decide
    | _ + 4 => exact iff_of_true rfl (.inl (by omega))

theorem Opcode.ofByte_primitive_eq_none_iff {cmd : Byte} (h : cmdClass cmd = 0) :
    Opcode.ofByte cmd = none ↔
      5 < cmdSvc cmd ∨ 2 < cmdRole cmd ∨
      ((cmdSide cmd).number = 0 ∧ cmdRole cmd ≠ 0) ∨
      ((cmdSide cmd).number = 1 ∧ (cmdRole cmd = 0 ∨ (cmdRole cmd = 2 ∧ cmdSvc cmd ≠ 0))) := by
  have hsvc := Svc.ofNumber_eq_none_iff (cmdSvc cmd)
  have hrole := Role.ofNumber_eq_none_iff (cmdRole cmd)
  simp only [Opcode.ofByte, h]
  cases hs : Svc.ofNumber (cmdSvc cmd) with
  | none => exact iff_of_true rfl (.inl (hsvc.mp hs))
  | some svc =>
    cases hr : Role.ofNumber (cmdRole cmd) with
    | none => exact iff_of_true rfl (.inr (.inl (hrole.mp hr)))
    | some role =>
      have hsvcLe : ¬ 5 < cmdSvc cmd := by simp [← hsvc, hs]
      have hroleLe : ¬ 2 < cmdRole cmd := by simp [← hrole, hr]
      simp only [Opcode.ofPrimitive_eq_none_iff, Svc.number_of_ofNumber hs, Role.number_of_ofNumber hr,
        hsvcLe, hroleLe, false_or]

theorem Opcode.ofByte_bind_eq_none_iff {cmd : Byte} (h : cmdClass cmd = 1) :
    Opcode.ofByte cmd = none ↔ 5 < cmdSvc cmd ∨ 2 < cmdRole cmd := by
  rw [← Svc.ofNumber_eq_none_iff, ← Role.ofNumber_eq_none_iff]
  simp only [Opcode.ofByte, h]
  cases Svc.ofNumber (cmdSvc cmd) <;> cases Role.ofNumber (cmdRole cmd) <;> simp

theorem Opcode.ofByte_unit_eq_none_iff {cmd : Byte} (h : cmdClass cmd = 2) :
    Opcode.ofByte cmd = none ↔ 3 < cmd.toNat % 32 ∨ (cmdSide cmd).number = 1 := by
  have hop : (cmd.extractLsb' 0 5).toNat = cmd.toNat % 32 := by simp
  simp only [Opcode.ofByte, h, Opcode.ofUnit_eq_none_iff, hop]

theorem Opcode.ofByte_reserved {cmd : Byte} (h : cmdClass cmd = 3) : Opcode.ofByte cmd = none := by
  simp only [Opcode.ofByte, h]

/-- Settles O3: the operands do not matter, and each of the four classes has its own lemma above. -/
theorem illegalCommandBytes : Obligations.IllegalCommandBytes := by
  intro cmd operands
  have hclass := cmdClass_eq cmd
  have hclasses : cmdClass cmd = 0 ∨ cmdClass cmd = 1 ∨ cmdClass cmd = 2 ∨ cmdClass cmd = 3 := by omega
  rw [decode_eq_illegal_iff]
  obtain h | h | h | h := hclasses
  · rw [Opcode.ofByte_primitive_eq_none_iff h, cmdSide_number, cmdSvc_eq, cmdRole_eq]
    omega
  · rw [Opcode.ofByte_bind_eq_none_iff h, cmdSvc_eq, cmdRole_eq]
    omega
  · rw [Opcode.ofByte_unit_eq_none_iff h, cmdSide_number]
    have hcmd := cmd.isLt
    omega
  · exact iff_of_true (Opcode.ofByte_reserved h) (.inl (hclass.symm.trans h))

namespace Machine

/-! ## The frame control word of a Frame (R71 to R75) -/

/-- The mode a field names has the field's code: the Reserved value names none (R74). -/
theorem AddrMode.code_of_ofField {field : BitVec 2} {mode : AddrMode}
    (h : AddrMode.ofField field = some mode) : mode.code = field := by
  unfold AddrMode.ofField at h
  split at h
  case isTrue hzero => cases h; exact hzero.symm
  split at h
  case isTrue htwo => cases h; exact htwo.symm
  split at h <;> cases h
  next hthree => exact hthree.symm

theorem fcFrameType_toNat (fc : BitVec 16) : (fcFrameType fc).toNat = fc.toNat % 8 := by
  simp [fcFrameType]

theorem fcDstMode_toNat (fc : BitVec 16) : (fcDstMode fc).toNat = fc.toNat / 1024 % 4 := by
  simp [fcDstMode, Nat.shiftRight_eq_div_pow]

/-- The source mode is the word's top field. -/
theorem fcSrcMode_toNat (fc : BitVec 16) : (fcSrcMode fc).toNat = fc.toNat / 16384 := by
  have hfc := fc.isLt
  have hmod : (fcSrcMode fc).toNat = fc.toNat / 16384 % 4 := by
    simp [fcSrcMode, Nat.shiftRight_eq_div_pow]
  omega

theorem reportedVersion_toNat (variant : Variant) (fc : BitVec 16) :
    (reportedVersion variant fc).toNat = if variant = .extended then fc.toNat / 4096 % 4 else 0 := by
  cases variant <;> simp [reportedVersion, fcFrameVersion, Nat.shiftRight_eq_div_pow]

/-- Settles O37: the Frame is assembled from the word's fields, and the modes are those its fields name. -/
theorem decodedFlagsAreFrameControlBits : Obligations.DecodedFlagsAreFrameControlBits := by
  intro variant buf declaredLength f h
  obtain ⟨-, dst, src, aux, n, hdst, hsrc, -, -, -, rfl⟩ := decodeMpdu_ok h
  have hdstCode : dst.code.toNat = (fcOf buf).toNat / 1024 % 4 := by
    rw [AddrMode.code_of_ofField hdst, fcDstMode_toNat]
  have hsrcCode : src.code.toNat = (fcOf buf).toNat / 16384 := by
    rw [AddrMode.code_of_ofField hsrc, fcSrcMode_toNat]
  exact ⟨fcFrameType_toNat _, rfl, rfl, rfl, rfl, hdstCode, hsrcCode, reportedVersion_toNat _ _⟩

/-! ## The physical frame (R90 to R92) -/

theorem phrOctet_toNat (psdu : Octets) : (phrOctet psdu).toNat = min psdu.length 127 :=
  Nat.mod_eq_of_lt (Nat.lt_of_le_of_lt (Nat.min_le_right _ _) (by decide))

/-- The reserved bit of the length octet is 0, as a length saturated at 127 fits seven bits. -/
theorem phrOctet_reserved (psdu : Octets) : (phrOctet psdu).getLsbD 7 = false := by
  rw [BitVec.getLsbD, phrOctet_toNat]
  exact Nat.testBit_lt_two_pow (Nat.lt_of_le_of_lt (Nat.min_le_right _ _) (by decide))

/-- Settles O42: the definition's layout, with what the two lemmas above say of the length octet. -/
theorem ppduWrapLayout : Obligations.PpduWrapLayout := fun psdu =>
  ⟨phrOctet psdu, rfl, phrOctet_toNat psdu, phrOctet_reserved psdu, ppduWrap_length psdu⟩

end Machine
end Sys2Proof
end

section
/-!
PROOFS. What DECODE answers for every buffer, and where it reads each field (40_codec.md R110 to R124, R142).
-/

namespace Sys2Proof

/-! ## Octets read as values (20_memory.md R52) -/

theorem leValue_take_lt (bs : Octets) (n : Nat) : leValue (bs.take n) < 256 ^ n :=
  Nat.lt_of_lt_of_le (leValue_lt _) (Nat.pow_le_pow_right (by decide) (List.length_take_le n bs))

/-- A word wide enough for `n` octets holds their value. -/
theorem toNat_ofNat_leValue_take {w n : Nat} (h : 8 * n ≤ w) (bs : Octets) :
    (BitVec.ofNat w (leValue (bs.take n))).toNat = leValue (bs.take n) := by
  have hlt := leValue_take_lt bs n
  have hpow : 256 ^ n ≤ 2 ^ w := by
    rw [show (256 : Nat) = 2 ^ 8 from rfl, ← Nat.pow_mul]
    exact Nat.pow_le_pow_right (by decide) h
  rw [BitVec.toNat_ofNat, Nat.mod_eq_of_lt (Nat.lt_of_lt_of_le hlt hpow)]

/-- One octet read as a value is that octet. -/
theorem ofNat_leValue_take_one (bs : Octets) : BitVec.ofNat 8 (leValue (bs.take 1)) = bs.headD 0#8 := by
  cases bs with
  | nil => rfl
  | cons b bs => simp [leValue]

/-- The octet at an offset inside the buffer, as the value read there. -/
theorem getElem?_eq_octet {bs : Octets} {k : Nat} (h : k < bs.length) :
    bs[k]? = some (BitVec.ofNat 8 (leValue ((bs.drop k).take 1))) := by
  rw [ofNat_leValue_take_one, List.drop_eq_getElem_cons h, List.headD_cons, List.getElem?_eq_getElem h]

namespace Machine

/-! ## Addressing mode fields (R74) -/

/-- The field with a mode's code names that mode. -/
theorem AddrMode.ofField_of_code {field : BitVec 2} {mode : AddrMode} (h : mode.code.toNat = field.toNat) :
    AddrMode.ofField field = some mode := by
  obtain rfl := BitVec.eq_of_toNat_eq h
  cases mode <;> rfl

/-- The value 1 is Reserved. -/
theorem AddrMode.ofField_reserved {field : BitVec 2} (h : field.toNat = 1) :
    AddrMode.ofField field = none := by
  obtain rfl : field = 1#2 := BitVec.eq_of_toNat_eq h
  rfl

/-- Every other value names a mode. -/
theorem AddrMode.ofField_isSome {field : BitVec 2} (h : field.toNat ≠ 1) :
    ∃ mode, AddrMode.ofField field = some mode ∧ mode.code.toNat = field.toNat := by
  have hall : ∀ field : BitVec 2, field.toNat ≠ 1 → (AddrMode.ofField field).isSome = true := by decide
  obtain ⟨mode, hmode⟩ := Option.isSome_iff_exists.mp (hall field h)
  exact ⟨mode, hmode, by rw [AddrMode.code_of_ofField hmode]⟩

/-- The length of the destination fields in terms of the mode's code (R80). -/
theorem dstFieldsLen_of_code (mode : AddrMode) :
    dstFieldsLen mode = if mode.code.toNat = 0 then 0 else if mode.code.toNat = 2 then 4 else 10 := by
  cases mode <;> rfl

/-- An address is no longer than its wire (R77). -/
theorem AddrMode.width_le (mode : AddrMode) : 8 * mode.width ≤ 64 := by cases mode <;> decide

theorem fcOf_toNat (buf : Octets) : (fcOf buf).toNat = leValue (buf.take 2) :=
  toNat_ofNat_leValue_take (by decide) buf

/-! ## Buffers without a header (R112) -/

theorem decodeMpdu_short {variant : Variant} {buf : Octets} {d : Byte} (h : buf.length < 3) :
    decodeMpdu variant buf d = .error .truncated := by
  have hneed : ({ cur := 0, rest := buf } : Reader).need Config.minHeader = .error .truncated :=
    if_neg (Nat.not_le.mpr h)
  simp only [decodeMpdu, hneed, bind, Except.bind]

/-- Settles O33: the first bounds test of DECODE fails. -/
theorem shortBufferIsTruncated : Obligations.ShortBufferIsTruncated :=
  fun _ _ _ h => decodeMpdu_short h

/-! ## Reserved modes (R114, R116, R142) -/

theorem decodeMpdu_reservedDst {variant : Variant} {buf : Octets} {d : Byte} (hb : 3 ≤ buf.length)
    (hd : AddrMode.ofField (fcDstMode (fcOf buf)) = none) :
    decodeMpdu variant buf d = .error .invalidAddressing := by
  simp only [decodeMpdu_steps hb, readDst_reserved _ hd, bind, Except.bind]

/-- The source mode is tested after the destination fields are read. -/
theorem decodeMpdu_reservedSrc {variant : Variant} {buf : Octets} {d : Byte} {dst : AddrMode}
    (hb : 3 ≤ buf.length) (hd : AddrMode.ofField (fcDstMode (fcOf buf)) = some dst)
    (hs : AddrMode.ofField (fcSrcMode (fcOf buf)) = none) :
    decodeMpdu variant buf d =
      .error (if buf.length < 3 + dstFieldsLen dst then .truncated else .invalidAddressing) := by
  rw [decodeMpdu_steps hb, readDst_at hb hd]
  by_cases hlen : 3 + dstFieldsLen dst ≤ buf.length
  · simp only [hlen, Nat.not_lt.mpr hlen, if_true, if_false, readSrc_reserved _ _ hs, bind, Except.bind]
  · simp only [hlen, Nat.not_le.mp hlen, if_true, if_false, bind, Except.bind]

/-- The mode fields of a buffer stand in its octet 1 (R71, R74). -/
theorem fcModes_cons_cons (o0 o1 : Byte) (rest : Octets) :
    (fcDstMode (fcOf (o0 :: o1 :: rest))).toNat = o1.toNat / 4 % 4 ∧
      (fcSrcMode (fcOf (o0 :: o1 :: rest))).toNat = o1.toNat / 64 := by
  have hfc : (fcOf (o0 :: o1 :: rest)).toNat = o0.toNat + 256 * o1.toNat := by
    simp [fcOf_toNat, leValue]
  have ho0 := o0.isLt
  rw [fcDstMode_toNat, fcSrcMode_toNat, hfc]
  omega

/-- Settles O34: a Reserved destination mode stops step 1, a Reserved source mode step 2, which comes
after the bounds test of the destination fields. -/
theorem reservedModeNeverDecodes : Obligations.ReservedModeNeverDecodes := by
  intro variant o0 o1 o2 rest d
  have hb : 3 ≤ (o0 :: o1 :: o2 :: rest).length := Nat.le_add_left 3 rest.length
  obtain ⟨hdst, hsrc⟩ := fcModes_cons_cons o0 o1 (o2 :: rest)
  refine ⟨fun h => decodeMpdu_reservedDst hb (AddrMode.ofField_reserved (hdst.trans h)), fun h hne => ?_⟩
  obtain ⟨dst, hd, hcode⟩ := AddrMode.ofField_isSome (hdst.symm ▸ hne)
  have hlen : (o0 :: o1 :: o2 :: rest).length < 3 + dstFieldsLen dst ↔ rest.length < dstFieldsLen dst := by
    simp only [List.length_cons]
    omega
  rw [decodeMpdu_reservedSrc hb hd (AddrMode.ofField_reserved (hsrc.trans h)), ← hdst, ← hcode,
    ← dstFieldsLen_of_code]
  simp only [hlen]

/-! ## The outcome of DECODE without a Reserved mode (R121 to R124, R238) -/

/-- What step 3 finds at the offset `h`: an auxiliary header if the build and the flag ask for one. -/
def auxFound (variant : Variant) (buf : Octets) (h : Nat) : Option AuxHeader :=
  if variant = .extended ∧ fcSecurityEnabled (fcOf buf) = true then some (auxAt buf h) else none

/-- The octets step 3 takes at the offset `h`. -/
def auxOctets (variant : Variant) (buf : Octets) (h : Nat) : Nat :=
  if variant = .extended ∧ fcSecurityEnabled (fcOf buf) = true then auxLength buf h else 0

/-- Where the header ends, the auxiliary header included. -/
def headerEnd (variant : Variant) (buf : Octets) (dst src : AddrMode) : Nat :=
  headerLength dst src (fcIntraPan (fcOf buf)) +
    auxOctets variant buf (headerLength dst src (fcIntraPan (fcOf buf)))

/-- The Frame that stands in a buffer with these modes and this declared length. -/
def frameAt (variant : Variant) (buf : Octets) (d : Byte) (dst src : AddrMode) : Frame :=
  assembleFrame variant (fcOf buf) (seqOf buf) (dstAt buf dst)
    (srcAt buf (3 + dstFieldsLen dst) src (fcIntraPan (fcOf buf)) (dstAt buf dst).pan)
    (auxFound variant buf (headerLength dst src (fcIntraPan (fcOf buf))))
    (headerEnd variant buf dst src)
    (trailerAt buf (headerEnd variant buf dst src) (d.toNat - 1 - headerEnd variant buf dst src))

/-- Step 3 at an offset, with or without an auxiliary header. -/
theorem readAux_eq (variant : Variant) {buf : Octets} {h : Nat} (hb : h ≤ buf.length) :
    readAux variant (fcOf buf) (Reader.at buf h) =
      if h + auxOctets variant buf h ≤ buf.length then
        .ok (auxFound variant buf h, Reader.at buf (h + auxOctets variant buf h))
      else .error .truncated := by
  by_cases hsec : fcSecurityEnabled (fcOf buf) = true
  · cases variant with
    | baseline => simp [readAux_absent, auxFound, auxOctets, hb]
    | extended => simp [readAux_at hb hsec, auxFound, auxOctets, hsec]
  · rw [Bool.not_eq_true] at hsec
    simp [readAux_absent _ (.inr hsec), auxFound, auxOctets, hsec, hb]

/-- The bounds tests of DECODE in their order: the header, the declared length, payload and trailer. -/
theorem decodeMpdu_eq {variant : Variant} {buf : Octets} {d : Byte} {dst src : AddrMode}
    (hb : 3 ≤ buf.length) (hd : AddrMode.ofField (fcDstMode (fcOf buf)) = some dst)
    (hs : AddrMode.ofField (fcSrcMode (fcOf buf)) = some src) :
    decodeMpdu variant buf d =
      if buf.length < headerEnd variant buf dst src then .error .truncated
      else if d.toNat < headerEnd variant buf dst src + 1 then .error .malformedLength
      else if buf.length < d.toNat + 3 then .error .truncated
      else .ok (frameAt variant buf d dst src) := by
  have hend : headerEnd variant buf dst src =
    3 + dstFieldsLen dst + srcFieldsLen src (fcIntraPan (fcOf buf)) + auxOctets variant buf
      (3 + dstFieldsLen dst + srcFieldsLen src (fcIntraPan (fcOf buf))) := rfl
  rw [decodeMpdu_steps hb, readDst_at hb hd]
  by_cases hdst : 3 + dstFieldsLen dst ≤ buf.length
  case neg =>
    have hshort : buf.length < headerEnd variant buf dst src := by omega
    simp only [hdst, hshort, if_true, if_false, bind, Except.bind]
  simp only [hdst, if_true, bind, Except.bind, readSrc_at hdst hs]
  by_cases hsrc : 3 + dstFieldsLen dst + srcFieldsLen src (fcIntraPan (fcOf buf)) ≤ buf.length
  case neg =>
    have hshort : buf.length < headerEnd variant buf dst src := by omega
    simp only [hsrc, hshort, if_true, if_false]
  simp only [hsrc, if_true, readAux_eq variant hsrc, ← hend]
  by_cases haux : headerEnd variant buf dst src ≤ buf.length
  case neg => simp only [haux, Nat.not_le.mp haux, if_true, if_false]
  simp only [haux, Nat.not_lt.mpr haux, if_true, if_false, Reader.at_cur, payloadLength_eq]
  by_cases hlen : headerEnd variant buf dst src + 1 ≤ d.toNat
  case neg => simp only [hlen, Nat.not_le.mp hlen, if_true, if_false]
  have htrailer : headerEnd variant buf dst src + (d.toNat - 1 - headerEnd variant buf dst src) + 4 ≤
    buf.length ↔ ¬ buf.length < d.toNat + 3 := by omega
  simp only [hlen, Nat.not_lt.mpr hlen, if_true, if_false, readTrailer_at _ haux, htrailer]
  by_cases hbuf : buf.length < d.toNat + 3
  · simp only [hbuf, not_true_eq_false, if_true, if_false]
  · simp only [hbuf, not_false_eq_true, if_true, if_false]
    rfl

/-- The octets of the auxiliary header, by the security flag and the octet at its offset (R119, R120). -/
theorem auxOctets_eq (variant : Variant) (buf : Octets) (h : Nat) :
    auxOctets variant buf h =
      if variant = .extended ∧ (leValue (buf.take 2)).testBit 3 = true
      then 5 + keyIdLength (((buf.drop h).headD 0#8).extractLsb' 3 2) else 0 := by
  rw [← ofNat_leValue_take_one, ← fcOf_toNat]
  rfl

/-- Settles O35: the bounds tests in their order, each clause one branch. -/
theorem decodeOutcomes : Obligations.DecodeOutcomes := by
  rintro variant buf d fc h n dst src hb rfl hdst hsrc rfl rfl
  rw [← fcOf_toNat, ← fcDstMode_toNat] at hdst
  rw [← fcOf_toNat, ← fcSrcMode_toNat] at hsrc
  have hintra : (leValue (buf.take 2)).testBit 6 = fcIntraPan (fcOf buf) := by rw [← fcOf_toNat]; rfl
  rw [← auxOctets_eq, hintra]
  change (buf.length < headerEnd variant buf dst src → _) ∧
    (headerEnd variant buf dst src ≤ buf.length → d.toNat < headerEnd variant buf dst src + 1 → _) ∧
    (headerEnd variant buf dst src + 1 ≤ d.toNat → headerEnd variant buf dst src ≤ buf.length → _) ∧
    (headerEnd variant buf dst src + 1 ≤ d.toNat → _)
  rw [decodeMpdu_eq hb (AddrMode.ofField_of_code hdst) (AddrMode.ofField_of_code hsrc)]
  refine ⟨fun hshort => if_pos hshort, fun hn hlen => ?_, fun hlen hn hshort => ?_, fun hlen hbuf => ?_⟩
  · rw [if_neg (Nat.not_lt.mpr hn), if_pos hlen]
  · rw [if_neg (Nat.not_lt.mpr hn), if_neg (Nat.not_lt.mpr hlen), if_pos hshort]
  · have hn : headerEnd variant buf dst src ≤ buf.length := by omega
    rw [if_neg (Nat.not_lt.mpr hn), if_neg (Nat.not_lt.mpr hlen), if_neg (Nat.not_lt.mpr hbuf)]
    exact ⟨_, rfl, rfl⟩

/-! ## Where the fields of a Frame stand (R78, R80, R111 to R123; D13, D15) -/

theorem seqOf_toNat (buf : Octets) : (seqOf buf).toNat = leValue ((buf.drop 2).take 1) :=
  toNat_ofNat_leValue_take (by decide) _

theorem dstAt_absent (buf : Octets) :
    (dstAt buf .absent).pan = 0#16 ∧ (dstAt buf .absent).addr = 0#64 := by
  simp [dstAt, AddrMode.width, leValue]

theorem dstAt_present (buf : Octets) {mode : AddrMode} (hm : mode ≠ .absent) :
    (dstAt buf mode).pan.toNat = leValue ((buf.drop 3).take 2) ∧
      (dstAt buf mode).addr.toNat = leValue ((buf.drop 5).take mode.width) := by
  simp only [dstAt, hm, if_false]
  exact ⟨toNat_ofNat_leValue_take (by decide) _, toNat_ofNat_leValue_take mode.width_le _⟩

theorem srcAt_absent (buf : Octets) (n : Nat) (intraPan : Bool) (dstPan : PanId) :
    (srcAt buf n .absent intraPan dstPan).pan = 0#16 ∧
      (srcAt buf n .absent intraPan dstPan).addr = 0#64 := by
  simp [srcAt, AddrMode.width, leValue]

/-- With the intra-PAN flag the PAN identifier is the destination's, and the address comes first (R118). -/
theorem srcAt_intraPan (buf : Octets) (n : Nat) {mode : AddrMode} (dstPan : PanId) (hm : mode ≠ .absent) :
    (srcAt buf n mode true dstPan).pan = dstPan ∧
      (srcAt buf n mode true dstPan).addr.toNat = leValue ((buf.drop n).take mode.width) := by
  simp only [srcAt, hm, if_true, if_false, true_and]
  exact toNat_ofNat_leValue_take mode.width_le _

theorem srcAt_ownPan (buf : Octets) (n : Nat) {mode : AddrMode} (dstPan : PanId) (hm : mode ≠ .absent) :
    (srcAt buf n mode false dstPan).pan.toNat = leValue ((buf.drop n).take 2) ∧
      (srcAt buf n mode false dstPan).addr.toNat = leValue ((buf.drop (n + 2)).take mode.width) := by
  simp only [srcAt, hm, if_false, Bool.false_eq_true]
  exact ⟨toNat_ofNat_leValue_take (by decide) _, toNat_ofNat_leValue_take mode.width_le _⟩

/-- The key identifier has its mode's length when the auxiliary header lies inside the buffer (R82). -/
theorem auxAt_keyId_length {buf : Octets} {h : Nat} (hb : h + auxLength buf h ≤ buf.length) :
    (auxAt buf h).keyId.length = keyIdLength (keyIdMode (auxAt buf h).secControl) := by
  have hfits : h + 5 + keyIdLength (keyIdMode (auxAt buf h).secControl) ≤ buf.length := by
    rw [Nat.add_assoc]
    exact hb
  exact List.length_take_of_le (List.length_drop ▸ Nat.le_sub_of_add_le' hfits)

/-- The fields of the auxiliary header, in their order (R81). -/
theorem auxAt_layout {buf : Octets} {h : Nat} (hb : h + auxLength buf h ≤ buf.length) :
    (auxAt buf h).secControl.toNat = leValue ((buf.drop h).take 1) ∧
      (auxAt buf h).frameCounter.toNat = leValue ((buf.drop (h + 1)).take 4) ∧
      (auxAt buf h).keyId.length = keyIdLength ((auxAt buf h).secControl.extractLsb' 3 2) ∧
      (auxAt buf h).keyId = (buf.drop (h + 5)).take (auxAt buf h).keyId.length := by
  refine ⟨toNat_ofNat_leValue_take (by decide) _, toNat_ofNat_leValue_take (by decide) _,
    auxAt_keyId_length hb, ?_⟩
  rw [auxAt_keyId_length hb]
  rfl

theorem trailerAt_payload_length {buf : Octets} {n pl : Nat} (hb : n + pl + 4 ≤ buf.length) :
    (trailerAt buf n pl).payload.length = pl := by
  refine List.length_take_of_le ?_
  rw [List.length_drop]
  omega

/-- The payload, and behind it FCS, LQI and RSSI (R123). -/
theorem trailerAt_layout {buf : Octets} {n pl : Nat} {t : Trailer} (hb : n + pl + 4 ≤ buf.length)
    (ht : t = trailerAt buf n pl) :
    t.payload = (buf.drop n).take t.payload.length ∧
      t.fcs.toNat = leValue ((buf.drop (n + t.payload.length)).take 2) ∧
      buf[n + t.payload.length + 2]? = some t.lqi ∧ buf[n + t.payload.length + 3]? = some t.rssi := by
  subst ht
  rw [trailerAt_payload_length hb]
  exact ⟨rfl, toNat_ofNat_leValue_take (by decide) _, getElem?_eq_octet (by omega),
    getElem?_eq_octet (by omega)⟩

/-- The auxiliary header a DECODE that succeeds has found, and the header length with it (R80, R119, R120). -/
theorem decodeMpdu_ok_aux {variant : Variant} {buf : Octets} {d : Byte} {f : Frame}
    (hf : decodeMpdu variant buf d = .ok f) :
    f.headerLen = headerLength f.dstMode f.srcMode f.intraPan +
        (match f.aux with | none => 0 | some a => 5 + a.keyId.length) ∧
      (f.aux = none ↔ variant = .baseline ∨ f.securityEnabled = false) ∧
      ∀ a, f.aux = some a → a = auxAt buf (headerLength f.dstMode f.srcMode f.intraPan) ∧
        headerLength f.dstMode f.srcMode f.intraPan +
          auxLength buf (headerLength f.dstMode f.srcMode f.intraPan) ≤ buf.length := by
  obtain ⟨-, dst, src, aux, n, -, -, haux, -, hbuf, rfl⟩ := decodeMpdu_ok hf
  obtain ⟨rfl, rfl, hnone⟩ | ⟨rfl, hsec, rfl, rfl⟩ := haux
  · exact ⟨rfl, iff_of_true rfl hnone, nofun⟩
  · have hfits : headerLength dst src (fcIntraPan (fcOf buf)) +
      auxLength buf (headerLength dst src (fcIntraPan (fcOf buf))) ≤ buf.length := by omega
    refine ⟨?_, iff_of_false nofun ?_, ?_⟩
    · exact congrArg (fun k => headerLength dst src (fcIntraPan (fcOf buf)) + (5 + k))
        (auxAt_keyId_length hfits).symm
    · rintro (hvariant | hflag)
      · cases hvariant
      · exact Bool.false_ne_true (hflag.symm.trans hsec)
    · rintro a ha
      cases ha
      exact ⟨rfl, hfits⟩

/-- Settles O36: each part of the Frame stands where its step of DECODE read it. -/
theorem decodedFrameLayout : Obligations.DecodedFrameLayout := by
  intro variant buf d f hf
  obtain ⟨hheader, hnone, haux⟩ := decodeMpdu_ok_aux hf
  obtain ⟨-, dst, src, aux, n, -, -, -, hd, hbuf, rfl⟩ := decodeMpdu_ok hf
  have hpl := trailerAt_payload_length hbuf
  refine ⟨hheader, ?_, ?_, fcOf_toNat buf, seqOf_toNat buf, ?_, dstAt_present buf, ?_, ?_, ?_, hnone, ?_,
    trailerAt_layout hbuf rfl⟩
  · simp only [assembleFrame, hpl]
    omega
  · simp only [assembleFrame, hpl]
    omega
  · rintro rfl
    exact dstAt_absent buf
  · rintro rfl
    exact srcAt_absent buf _ _ (dstAt buf dst).pan
  · intro hsrc (hintra : fcIntraPan (fcOf buf) = true)
    simp only [assembleFrame, hintra]
    exact srcAt_intraPan buf _ _ hsrc
  · intro hsrc (hintra : fcIntraPan (fcOf buf) = false)
    simp only [assembleFrame, hintra]
    exact srcAt_ownPan buf _ _ hsrc
  · intro a ha
    obtain ⟨rfl, hfits⟩ := haux a ha
    exact auxAt_layout hfits

/-! ## The command (R110) -/

/-- Settles O32: the completion carries the decoder's answer, and only the event list grows. -/
theorem decodeChangesNoRegister : Obligations.DecodeChangesNoRegister := by
  intro rxbuf d s
  refine ⟨decodeCompletion (decodeMpdu s.build.variant rxbuf d), rfl, fun f h => ?_, fun e h => ?_⟩
  · rw [h]; rfl
  · rw [h]; rfl

end Machine
end Sys2Proof
end

section
/-!
PROOFS. What ENCODE writes and where (40_codec.md R125 to R135), and the sequence numbers of a run of
ENCODE commands (R143).
-/

namespace Sys2Proof

/-! ## Octets of a value (20_memory.md R52) -/

/-- The octets of a bit vector read back as its value, cut to their number. -/
theorem leValue_octetsOf {w : Nat} (n : Nat) (v : BitVec w) : leValue (octetsOf n v) = v.toNat % 256 ^ n :=
  leValue_leOctets n v.toNat

/-- Octets enough for the width lose nothing. -/
theorem leValue_octetsOf_two (v : BitVec 16) : leValue (octetsOf 2 v) = v.toNat := by
  exact (leValue_octetsOf 2 v).trans (Nat.mod_eq_of_lt v.isLt)

namespace Machine

/-! ## The frame control word as a number (R71, R127) -/

/-- A field above the bits of a word adds to it. -/
theorem toNat_or_field {low field : BitVec 16} {n i x : Nat} (hlow : low.toNat = n)
    (hfield : field.toNat = 2 ^ i * x) (hn : n < 2 ^ i) : (low ||| field).toNat = n + 2 ^ i * x := by
  rw [BitVec.toNat_or, hlow, hfield, Nat.or_comm, ← Nat.two_pow_add_eq_or_of_lt hn, Nat.add_comm]

theorem fcBit_toNat (b : Bool) {position : Nat} (h : position < 16) :
    (fcBit b position).toNat = 2 ^ position * b.toNat := by
  have hall : ∀ b, ∀ p : Fin 16, (fcBit b p).toNat = 2 ^ p.val * b.toNat := by decide
  exact hall b ⟨position, h⟩

/-- The word ENCODE writes, as the sum of its fields. -/
theorem frameControl_toNat (dst src : AddrMode) (opts : BitVec 4) (intraPan : Bool) :
    (frameControl dst src opts intraPan).toNat =
      1 + 8 * (txSecurity opts).toNat + 16 * (txIndirect opts).toNat + 32 * (txAckRequest opts).toNat +
        64 * intraPan.toNat + 1024 * dst.code.toNat + 16384 * src.code.toNat := by
  have hsec := (txSecurity opts).toNat_le
  have hind := (txIndirect opts).toNat_le
  have hack := (txAckRequest opts).toNat_le
  have hintra := intraPan.toNat_le
  have hdst : (dst.code.setWidth 16 <<< 10).toNat = 2 ^ 10 * dst.code.toNat := by cases dst <;> rfl
  have hsrc : (src.code.setWidth 16 <<< 14).toNat = 2 ^ 14 * src.code.toNat := by cases src <;> rfl
  have hdstLt := dst.code.isLt
  have h3 := toNat_or_field (low := 1#16) (n := 1) rfl
    (fcBit_toNat (txSecurity opts) (position := 3) (by decide)) (by decide)
  have h4 := toNat_or_field h3 (fcBit_toNat (txIndirect opts) (position := 4) (by decide)) (by omega)
  have h5 := toNat_or_field h4 (fcBit_toNat (txAckRequest opts) (position := 5) (by decide)) (by omega)
  have h6 := toNat_or_field h5 (fcBit_toNat intraPan (position := 6) (by decide)) (by omega)
  have h10 := toNat_or_field h6 hdst (by omega)
  exact toNat_or_field h10 hsrc (by omega)

/-- `Norm` keeps the codes 2 and 3 and answers Absent for every other mode (R126, D37). -/
theorem AddrMode.norm_code (requested : Byte) :
    (AddrMode.norm requested).code.toNat =
      if requested = 2#8 ∨ requested = 3#8 then requested.toNat else 0 := by
  by_cases h2 : requested = 2#8
  · rw [h2]; rfl
  by_cases h3 : requested = 3#8
  · rw [h3]; rfl
  simp only [AddrMode.norm, h2, h3, or_self, if_false]
  rfl

/-! ## The fields of the header (R77, R80, R128 to R131) -/

theorem dstFields_present {mode : AddrMode} (hm : mode ≠ .absent) (pan : PanId) (addr : AddrWire) :
    dstFields mode pan addr = octetsOf 2 pan ++ octetsOf mode.width addr := by
  cases mode with
  | absent => exact absurd rfl hm
  | short16 => rfl
  | extended64 => rfl

theorem srcFields_present {mode : AddrMode} (hm : mode ≠ .absent) (intraPan : Bool) (pan : PanId)
    (addr : AddrWire) :
    srcFields mode intraPan pan addr = (if intraPan then [] else octetsOf 2 pan) ++ octetsOf mode.width addr := by
  cases mode with
  | absent => exact absurd rfl hm
  | short16 => rfl
  | extended64 => rfl

/-- The source address is the last field of the header. -/
theorem headerLength_sub_width {src : AddrMode} (hm : src ≠ .absent) (dst : AddrMode) (intraPan : Bool) :
    headerLength dst src intraPan - src.width = if intraPan then 3 + dstFieldsLen dst
      else 3 + dstFieldsLen dst + 2 := by
  cases src with
  | absent => exact absurd rfl hm
  | short16 => cases intraPan <;> rfl
  | extended64 => cases intraPan <;> rfl

section
variable {dsn : BitVec 8} {r : EncodeRequest} {tail : Octets}

/-- The parts of the header and what follows it, one behind the other. -/
theorem encodeHeader_append :
    encodeHeader dsn r ++ tail =
      octetsOf 2 (frameControl (AddrMode.norm r.dstMode) (AddrMode.norm r.srcMode) r.txOptions r.intraPan) ++
        dsn :: (dstFields (AddrMode.norm r.dstMode) r.dstPan r.dstAddr ++
          (srcFields (AddrMode.norm r.srcMode) r.intraPan r.srcPan r.srcAddr ++ tail)) := by
  simp only [encodeHeader, List.append_assoc, List.cons_append, List.nil_append]

theorem take_encodeHeader_fc :
    (encodeHeader dsn r ++ tail).take 2 =
      octetsOf 2 (frameControl (AddrMode.norm r.dstMode) (AddrMode.norm r.srcMode) r.txOptions r.intraPan) := by
  rw [encodeHeader_append, List.take_left' (octetsOf_length 2 _)]

theorem drop_encodeHeader_seq :
    (encodeHeader dsn r ++ tail).drop 2 =
      dsn :: (dstFields (AddrMode.norm r.dstMode) r.dstPan r.dstAddr ++
        (srcFields (AddrMode.norm r.srcMode) r.intraPan r.srcPan r.srcAddr ++ tail)) := by
  rw [encodeHeader_append, List.drop_left' (octetsOf_length 2 _)]

theorem drop_encodeHeader_dst :
    (encodeHeader dsn r ++ tail).drop 3 =
      dstFields (AddrMode.norm r.dstMode) r.dstPan r.dstAddr ++
        (srcFields (AddrMode.norm r.srcMode) r.intraPan r.srcPan r.srcAddr ++ tail) := by
  rw [← List.drop_drop (i := 1) (j := 2), drop_encodeHeader_seq, List.drop_one, List.tail_cons]

theorem drop_encodeHeader_src :
    (encodeHeader dsn r ++ tail).drop (3 + dstFieldsLen (AddrMode.norm r.dstMode)) =
      srcFields (AddrMode.norm r.srcMode) r.intraPan r.srcPan r.srcAddr ++ tail := by
  rw [← List.drop_drop, drop_encodeHeader_dst, List.drop_left' (dstFields_length _ _ _)]

theorem drop_encodeHeader :
    (encodeHeader dsn r ++ tail).drop
      (headerLength (AddrMode.norm r.dstMode) (AddrMode.norm r.srcMode) r.intraPan) = tail :=
  List.drop_left' (encodeHeader_length dsn r)

/-- The destination's PAN identifier, and its address behind it. -/
theorem take_encodeHeader_dst (hm : AddrMode.norm r.dstMode ≠ .absent) :
    ((encodeHeader dsn r ++ tail).drop 3).take 2 = octetsOf 2 r.dstPan ∧
      ((encodeHeader dsn r ++ tail).drop 5).take (AddrMode.norm r.dstMode).width =
        octetsOf (AddrMode.norm r.dstMode).width r.dstAddr := by
  rw [← List.drop_drop (i := 2) (j := 3), drop_encodeHeader_dst, dstFields_present hm, List.append_assoc,
    List.drop_left' (octetsOf_length 2 _), List.take_left' (octetsOf_length 2 _),
    List.take_left' (octetsOf_length _ _)]
  exact ⟨rfl, rfl⟩

/-- The source's own PAN identifier, and its address behind it. -/
theorem take_encodeHeader_src_ownPan (hm : AddrMode.norm r.srcMode ≠ .absent) (hintra : r.intraPan = false) :
    ((encodeHeader dsn r ++ tail).drop (3 + dstFieldsLen (AddrMode.norm r.dstMode))).take 2 =
        octetsOf 2 r.srcPan ∧
      ((encodeHeader dsn r ++ tail).drop (3 + dstFieldsLen (AddrMode.norm r.dstMode) + 2)).take
          (AddrMode.norm r.srcMode).width =
        octetsOf (AddrMode.norm r.srcMode).width r.srcAddr := by
  rw [← List.drop_drop (i := 2), drop_encodeHeader_src, srcFields_present hm, hintra,
    if_neg Bool.false_ne_true, List.append_assoc, List.drop_left' (octetsOf_length 2 _),
    List.take_left' (octetsOf_length 2 _), List.take_left' (octetsOf_length _ _)]
  exact ⟨rfl, rfl⟩

/-- With the intra-PAN flag the source address stands behind the destination fields. -/
theorem take_encodeHeader_src_intraPan (hm : AddrMode.norm r.srcMode ≠ .absent) (hintra : r.intraPan = true) :
    ((encodeHeader dsn r ++ tail).drop (3 + dstFieldsLen (AddrMode.norm r.dstMode))).take
        (AddrMode.norm r.srcMode).width =
      octetsOf (AddrMode.norm r.srcMode).width r.srcAddr := by
  rw [drop_encodeHeader_src, srcFields_present hm, hintra, if_pos rfl, List.nil_append,
    List.take_left' (octetsOf_length _ _)]

/-- Wherever the source address starts, it is the last field of the header. -/
theorem take_encodeHeader_srcAddr (hm : AddrMode.norm r.srcMode ≠ .absent) :
    ((encodeHeader dsn r ++ tail).drop
      (headerLength (AddrMode.norm r.dstMode) (AddrMode.norm r.srcMode) r.intraPan -
        (AddrMode.norm r.srcMode).width)).take (AddrMode.norm r.srcMode).width =
      octetsOf (AddrMode.norm r.srcMode).width r.srcAddr := by
  rw [headerLength_sub_width hm]
  cases hintra : r.intraPan with
  | false => exact (take_encodeHeader_src_ownPan hm hintra).2
  | true => exact take_encodeHeader_src_intraPan hm hintra

end

/-! ## The MPDU (R125 to R135) -/

/-- The header, and behind it the payload and the footer over both. -/
theorem encodeMpdu_eq (manualFcs : Bool) (fcs16 : Octets → BitVec 16) (dsn : BitVec 8) (r : EncodeRequest) :
    encodeMpdu manualFcs fcs16 dsn r = encodeHeader dsn r ++
      (r.payload ++ encodeFooter manualFcs fcs16 (encodeHeader dsn r ++ r.payload)) := by
  simp only [encodeMpdu, List.append_assoc]

theorem leValue_take_encodeMpdu (manualFcs : Bool) (fcs16 : Octets → BitVec 16) (dsn : BitVec 8)
    (r : EncodeRequest) :
    leValue ((encodeMpdu manualFcs fcs16 dsn r).take 2) =
      (frameControl (AddrMode.norm r.dstMode) (AddrMode.norm r.srcMode) r.txOptions r.intraPan).toNat := by
  rw [encodeMpdu_eq, take_encodeHeader_fc, leValue_octetsOf_two]

/-- Settles O39: the first two octets are the frame control word, which is the sum of its fields. -/
theorem encodedFrameControl : Obligations.EncodedFrameControl := by
  intro manualFcs fcs16 dsn r
  rw [leValue_take_encodeMpdu, frameControl_toNat, AddrMode.norm_code, AddrMode.norm_code]
  rfl

/-- Settles O40: each field follows the one before it, and the footer is computed over all before it. -/
theorem encodedFrameLayout : Obligations.EncodedFrameLayout := by
  rintro manualFcs fcs16 dsn r m dst src h rfl rfl rfl rfl
  refine ⟨encodeMpdu_length manualFcs fcs16 dsn r, leValue_take_encodeMpdu manualFcs fcs16 dsn r, ?_⟩
  rw [encodeMpdu_eq]
  refine ⟨?_, fun hdst => ?_, fun hsrc hintra => ?_, fun hsrc => ?_, ?_, fun hfcs => ?_⟩
  · rw [← List.head?_drop, drop_encodeHeader_seq, List.head?_cons]
  · obtain ⟨hpan, haddr⟩ := take_encodeHeader_dst hdst
    rw [hpan, haddr]
    exact ⟨leValue_octetsOf_two _, leValue_octetsOf _ _⟩
  · rw [(take_encodeHeader_src_ownPan hsrc hintra).1, leValue_octetsOf_two]
  · rw [take_encodeHeader_srcAddr hsrc, leValue_octetsOf]
  · rw [drop_encodeHeader, List.take_left]
  · rw [hfcs, ← List.append_assoc,
      List.drop_left' (by rw [List.length_append, encodeHeader_length]),
      List.take_left' (by rw [List.length_append, encodeHeader_length])]
    exact leValue_octetsOf_two _

/-- Settles O38: ENCODE is the MPDU writer and the counter, and only the event list grows besides. -/
theorem encodeAdvancesSequenceCounter : Obligations.EncodeAdvancesSequenceCounter := fun _ _ => rfl

/-! ## Runs of ENCODE commands (R143) -/

/-- The completion of ENCODE for a build and a sequence counter. -/
def encodeEvent (b : Build) (dsn : BitVec 8) (r : EncodeRequest) : Event :=
  .completed (.mpdu (encodeMpdu b.manualFcs Config.fcs16 dsn r)
    (BitVec.ofNat 9 (encodeMpdu b.manualFcs Config.fcs16 dsn r).length))

/-- One step over a presented ENCODE command. -/
theorem step_encodeFrame {s : State} {r : EncodeRequest} {more : List Input} (hwf : r.wellFormed = true)
    (hinbox : s.env.inbox = .command (encode (.encodeFrame r)) :: more) :
    step s = .next { s with
      env := { s.env with inbox := more }
      dsn := s.dsn + 1#8
      events := s.events ++ [encodeEvent s.build s.dsn r] } := by
  have hdecode : decode (encode (.encodeFrame r)) = .ok (.encodeFrame r, []) := by
    simpa using commandRoundTrip (.encodeFrame r) [] hwf
  rw [step_command hinbox, runOctets_ok hdecode, State.dropInput_eq hinbox, encodeAdvancesSequenceCounter]
  rfl

/-- A run goes on from the state its first step answers. -/
theorem run_succ {s t : State} (h : step s = .next t) (k : Nat) :
    Host.Core.run Sys2Proof.core (k + 1) s = Host.Core.run Sys2Proof.core k t := by
  have hcore : Sys2Proof.core.step s = .next t := h
  simp only [Host.Core.run, hcore]

/-- The counters of a run, one ENCODE after another. -/
theorem dsn_add_succ (dsn : BitVec 8) (i : Nat) :
    dsn + 1#8 + BitVec.ofNat 8 i = dsn + BitVec.ofNat 8 (i + 1) := by
  rw [BitVec.add_assoc, Nat.add_comm i 1, BitVec.ofNat_add]

/-- A run over ENCODE commands empties the inbox, advances the counter by their number, and completes
each for the counter it finds. -/
theorem run_encodeFrames (rs : List EncodeRequest) (s : State) (hwf : ∀ r ∈ rs, r.wellFormed = true)
    (hinbox : s.env.inbox = rs.map fun r => Input.command (encode (.encodeFrame r))) :
    Host.Core.run Sys2Proof.core rs.length s = .next { s with
      env := { s.env with inbox := [] }
      dsn := s.dsn + BitVec.ofNat 8 rs.length
      events := s.events ++ rs.mapIdx fun i r => encodeEvent s.build (s.dsn + BitVec.ofNat 8 i) r } := by
  induction rs generalizing s with
  | nil =>
    have hempty : s.env.inbox = [] := hinbox
    have henv : { s.env with inbox := [] } = s.env := by rw [← hempty]
    simp only [Host.Core.run, List.length_nil, henv, BitVec.add_zero, List.mapIdx_nil, List.append_nil]
  | cons r rs ih =>
    obtain ⟨hr, hrs⟩ := List.forall_mem_cons.mp hwf
    rw [List.length_cons, run_succ (step_encodeFrame hr hinbox), ih _ hrs rfl]
    simp only [dsn_add_succ, List.append_assoc, List.singleton_append, List.mapIdx_cons,
      BitVec.add_zero]

/-- Settles O44: the run's events are the completions, the i-th for the counter `dsn + i`. -/
theorem sequenceNumbersOfEncodes : Obligations.SequenceNumbersOfEncodes := by
  intro rs s hwf hinbox
  refine ⟨_, run_encodeFrames rs s hwf hinbox, rfl, ?_, fun i hi => ?_⟩
  · simp only [List.length_append, List.length_mapIdx]
  · simp only [List.getElem?_append_right (Nat.le_add_right _ _), Nat.add_sub_cancel_left,
      List.getElem?_mapIdx, List.getElem?_eq_getElem hi, Option.map_some]
    rfl

end Machine
end Sys2Proof
end

section
/-!
PROOFS. What ENCODE writes decodes back to the request (40_codec.md R140).
-/

namespace Sys2Proof
namespace Machine

/-! ## Modes and the frame control word -/

/-- A requested mode with a mode's code is normalised to that mode (R126). -/
theorem AddrMode.norm_of_code {requested : Byte} {mode : AddrMode}
    (h : requested.toNat = mode.code.toNat) : AddrMode.norm requested = mode := by
  have hrequested : requested = BitVec.ofNat 8 mode.code.toNat := by
    rw [← h, BitVec.ofNat_toNat, BitVec.setWidth_eq]
  subst hrequested
  cases mode <;> rfl

theorem getLsbD_of_toNat {fc : BitVec 16} {i : Nat} {b : Bool} (h : fc.toNat / 2 ^ i % 2 = b.toNat) :
    fc.getLsbD i = b := by
  rw [BitVec.getLsbD, Nat.testBit_eq_decide_div_mod_eq, h]
  cases b <;> rfl

section
variable (dst src : AddrMode) (opts : BitVec 4) (intraPan : Bool)

/-- The flags of the word ENCODE writes are those of the request (R71, R127). -/
theorem frameControl_flags :
    fcFrameType (frameControl dst src opts intraPan) = 1#3 ∧
      fcSecurityEnabled (frameControl dst src opts intraPan) = txSecurity opts ∧
      fcFramePending (frameControl dst src opts intraPan) = txIndirect opts ∧
      fcAckRequest (frameControl dst src opts intraPan) = txAckRequest opts ∧
      fcIntraPan (frameControl dst src opts intraPan) = intraPan := by
  have hword := frameControl_toNat dst src opts intraPan
  have hsec := (txSecurity opts).toNat_le
  have hind := (txIndirect opts).toNat_le
  have hack := (txAckRequest opts).toNat_le
  have hintra := intraPan.toNat_le
  refine ⟨BitVec.eq_of_toNat_eq ?_, getLsbD_of_toNat ?_, getLsbD_of_toNat ?_, getLsbD_of_toNat ?_,
    getLsbD_of_toNat ?_⟩
  · rw [fcFrameType_toNat, hword, BitVec.toNat_ofNat]
    omega
  all_goals omega

/-- Its mode fields name the modes it was written from (R71, R74). -/
theorem frameControl_modes :
    AddrMode.ofField (fcDstMode (frameControl dst src opts intraPan)) = some dst ∧
      AddrMode.ofField (fcSrcMode (frameControl dst src opts intraPan)) = some src := by
  have hword := frameControl_toNat dst src opts intraPan
  have hsec := (txSecurity opts).toNat_le
  have hind := (txIndirect opts).toNat_le
  have hack := (txAckRequest opts).toNat_le
  have hintra := intraPan.toNat_le
  have hdst := dst.code.isLt
  refine ⟨AddrMode.ofField_of_code ?_, AddrMode.ofField_of_code ?_⟩
  · rw [fcDstMode_toNat]
    omega
  · rw [fcSrcMode_toNat]
    omega

end

/-! ## One end of a frame -/

/-- The operands of one end that a frame with this mode can carry: zeros where the mode is Absent, and a
short address in 16 bits (R140, (ii) and (iii)). -/
def Carried (mode : AddrMode) (pan : PanId) (addr : AddrWire) : Prop :=
  (mode = .absent → pan = 0#16 ∧ addr = 0#64) ∧ (mode = .short16 → addr.toNat < 2 ^ 16)

/-- A carried address survives the octets of its mode. -/
theorem Carried.ofNat_leValue {mode : AddrMode} {pan : PanId} {addr : AddrWire} (h : Carried mode pan addr) :
    BitVec.ofNat 64 (leValue (octetsOf mode.width addr)) = addr := by
  obtain ⟨habsent, hshort⟩ := h
  have hlt : addr.toNat < 256 ^ mode.width := by
    cases mode with
    | absent => rw [(habsent rfl).2]; decide
    | short16 => exact hshort rfl
    | extended64 => exact addr.isLt
  rw [leValue_octetsOf, Nat.mod_eq_of_lt hlt, BitVec.ofNat_toNat, BitVec.setWidth_eq]

section
variable {dsn : BitVec 8} {r : EncodeRequest} {tail : Octets}

theorem fcOf_encodeHeader :
    fcOf (encodeHeader dsn r ++ tail) =
      frameControl (AddrMode.norm r.dstMode) (AddrMode.norm r.srcMode) r.txOptions r.intraPan := by
  rw [fcOf, take_encodeHeader_fc, ofNat_leValue_octetsOf 2 _ (by decide)]

theorem seqOf_encodeHeader : seqOf (encodeHeader dsn r ++ tail) = dsn := by
  rw [seqOf, drop_encodeHeader_seq, ofNat_leValue_take_one, List.headD_cons]

/-- Step 1 finds the request's destination. -/
theorem dstAt_encodeHeader (h : Carried (AddrMode.norm r.dstMode) r.dstPan r.dstAddr) :
    dstAt (encodeHeader dsn r ++ tail) (AddrMode.norm r.dstMode) =
      { mode := AddrMode.norm r.dstMode, pan := r.dstPan, addr := r.dstAddr } := by
  by_cases hm : AddrMode.norm r.dstMode = .absent
  · obtain ⟨hpan, haddr⟩ := h.1 hm
    rw [hm, hpan, haddr]
    rfl
  · obtain ⟨hpan, haddr⟩ := take_encodeHeader_dst (dsn := dsn) (tail := tail) hm
    simp only [dstAt, hm, if_false, hpan, haddr, h.ofNat_leValue]
    rw [ofNat_leValue_octetsOf 2 _ (by decide)]

/-- Step 2 finds the request's source, whose PAN identifier is the destination's where none is written. -/
theorem srcAt_encodeHeader {dstPan : PanId} (h : Carried (AddrMode.norm r.srcMode) r.srcPan r.srcAddr)
    (hcopied : r.intraPan = true → AddrMode.norm r.srcMode ≠ .absent → r.srcPan = dstPan) :
    srcAt (encodeHeader dsn r ++ tail) (3 + dstFieldsLen (AddrMode.norm r.dstMode))
        (AddrMode.norm r.srcMode) r.intraPan dstPan =
      { mode := AddrMode.norm r.srcMode, pan := r.srcPan, addr := r.srcAddr } := by
  by_cases hm : AddrMode.norm r.srcMode = .absent
  · obtain ⟨hpan, haddr⟩ := h.1 hm
    rw [hm, hpan, haddr]
    rfl
  cases hintra : r.intraPan with
  | false =>
    obtain ⟨hpan, haddr⟩ := take_encodeHeader_src_ownPan (dsn := dsn) (tail := tail) hm hintra
    simp only [srcAt, hm, Bool.false_eq_true, if_false, hpan, haddr, h.ofNat_leValue]
    rw [ofNat_leValue_octetsOf 2 _ (by decide)]
  | true =>
    have haddr := take_encodeHeader_src_intraPan (dsn := dsn) (tail := tail) hm hintra
    simp only [srcAt, hm, if_true, if_false, haddr, h.ofNat_leValue, hcopied hintra hm]

/-- Step 5 finds the payload and the four octets behind it. -/
theorem trailerAt_encodeHeader {fcs : Octets} (hfcs : fcs.length = 2) (lqi rssi : Byte) :
    trailerAt (encodeHeader dsn r ++ (r.payload ++ (fcs ++ [lqi, rssi])))
        (headerLength (AddrMode.norm r.dstMode) (AddrMode.norm r.srcMode) r.intraPan) r.payload.length =
      { payload := r.payload, fcs := BitVec.ofNat 16 (leValue fcs), lqi, rssi } := by
  obtain ⟨low, high, rfl⟩ := List.length_eq_two.mp hfcs
  simp only [trailerAt, ← List.drop_drop, drop_encodeHeader, List.take_left, List.drop_left,
    ofNat_leValue_take_one]
  rfl

end

/-! ## The round trip (R140) -/

/-- The Frame of a request, written with a sequence number and received with an FCS, LQI and RSSI. -/
def requestFrame (variant : Variant) (dsn : BitVec 8) (r : EncodeRequest) (fcs : Octets) (lqi rssi : Byte) :
    Frame :=
  assembleFrame variant
    (frameControl (AddrMode.norm r.dstMode) (AddrMode.norm r.srcMode) r.txOptions r.intraPan) dsn
    { mode := AddrMode.norm r.dstMode, pan := r.dstPan, addr := r.dstAddr }
    { mode := AddrMode.norm r.srcMode, pan := r.srcPan, addr := r.srcAddr } none
    (headerLength (AddrMode.norm r.dstMode) (AddrMode.norm r.srcMode) r.intraPan)
    { payload := r.payload, fcs := BitVec.ofNat 16 (leValue fcs), lqi, rssi }

/-- A written header, the payload and any four octets behind it decode to the request's Frame, under R140's
conditions on the two ends, the security option and the declared length. -/
theorem decodeMpdu_encodeHeader {variant : Variant} {dsn : BitVec 8} {r : EncodeRequest} {buf fcs : Octets}
    {lqi rssi d : Byte} {h : Nat} (hbuf : buf = encodeHeader dsn r ++ (r.payload ++ (fcs ++ [lqi, rssi])))
    (hdst : Carried (AddrMode.norm r.dstMode) r.dstPan r.dstAddr)
    (hsrc : Carried (AddrMode.norm r.srcMode) r.srcPan r.srcAddr)
    (hcopied : r.intraPan = true → AddrMode.norm r.srcMode ≠ .absent → r.srcPan = r.dstPan)
    (hsec : variant = .baseline ∨ txSecurity r.txOptions = false) (hfcs : fcs.length = 2)
    (hh : headerLength (AddrMode.norm r.dstMode) (AddrMode.norm r.srcMode) r.intraPan = h)
    (hd : d.toNat = h + r.payload.length + 1) :
    decodeMpdu variant buf d = .ok (requestFrame variant dsn r fcs lqi rssi) := by
  have hlength : buf.length = h + r.payload.length + 4 := by
    simp only [hbuf, List.length_append, encodeHeader_length, hh, hfcs, List.length_cons, List.length_nil]
    omega
  have hmin : 3 ≤ h := by
    rw [← hh, headerLength, Nat.add_assoc]
    exact Nat.le_add_right _ _
  have hfc : fcOf buf = _ := hbuf ▸ fcOf_encodeHeader
  obtain ⟨-, hflag, -, -, hintra⟩ := frameControl_flags (AddrMode.norm r.dstMode) (AddrMode.norm r.srcMode)
    r.txOptions r.intraPan
  obtain ⟨hdstMode, hsrcMode⟩ := frameControl_modes (AddrMode.norm r.dstMode) (AddrMode.norm r.srcMode)
    r.txOptions r.intraPan
  rw [← hfc] at hflag hintra hdstMode hsrcMode
  have hnoAux : ¬ (variant = .extended ∧ fcSecurityEnabled (fcOf buf) = true) := by
    rintro ⟨rfl, hset⟩
    obtain hbaseline | hclear := hsec
    · cases hbaseline
    · exact Bool.false_ne_true (hclear.symm.trans (hflag.symm.trans hset))
  have hend : headerEnd variant buf (AddrMode.norm r.dstMode) (AddrMode.norm r.srcMode) = h := by
    rw [headerEnd, auxOctets, if_neg hnoAux, hintra, hh, Nat.add_zero]
  have hpl : d.toNat - 1 - h = r.payload.length := by omega
  rw [decodeMpdu_eq (by omega) hdstMode hsrcMode, hend, if_neg (by omega), if_neg (by omega),
    if_neg (by omega), frameAt, hend, hpl, auxFound, if_neg hnoAux, hintra, hfc, hbuf, seqOf_encodeHeader,
    dstAt_encodeHeader hdst, srcAt_encodeHeader hsrc hcopied, ← hh, trailerAt_encodeHeader hfcs]
  rfl

/-- Settles O43: the MPDU and what is received behind it are a header, a payload and four octets, and the
Frame they decode to has the request's fields. -/
theorem frameRoundTrip : Obligations.FrameRoundTrip := by
  intro variant manualFcs fcs16 dsn r dst src footer lqi rssi hdst hsrc hdstAbsent hsrcAbsent hdstShort
    hsrcShort hcopied hsec hfooter hnoFooter hlen
  obtain rfl := AddrMode.norm_of_code hdst
  obtain rfl := AddrMode.norm_of_code hsrc
  have hfcs : (encodeFooter manualFcs fcs16 (encodeHeader dsn r ++ r.payload) ++ footer).length = 2 := by
    cases manualFcs with
    | false => exact hfooter rfl
    | true => rw [hnoFooter rfl, List.append_nil, encodeFooter_length, if_pos rfl]
  have hbuf : encodeMpdu manualFcs fcs16 dsn r ++ footer ++ [lqi, rssi] = encodeHeader dsn r ++
      (r.payload ++ ((encodeFooter manualFcs fcs16 (encodeHeader dsn r ++ r.payload) ++ footer) ++
        [lqi, rssi])) := by
    simp only [encodeMpdu_eq, List.append_assoc]
  obtain ⟨htype, hsecurity, hpending, hack, hintra⟩ := frameControl_flags (AddrMode.norm r.dstMode)
    (AddrMode.norm r.srcMode) r.txOptions r.intraPan
  refine ⟨_, decodeMpdu_encodeHeader hbuf ⟨hdstAbsent, hdstShort⟩ ⟨hsrcAbsent, hsrcShort⟩ hcopied hsec hfcs
    rfl (Nat.mod_eq_of_lt (Nat.lt_succ_of_le hlen)), htype, hsecurity, hpending, hack, hintra, ?_⟩
  exact ⟨rfl, rfl, rfl, rfl, rfl, rfl, rfl, rfl, rfl, rfl, rfl⟩

end Machine
end Sys2Proof
end

section
/-!
PROOFS. The SAP registry (41_sap_registry.md): BIND, the inbound gate of the primitives, and illegal
command bytes.
-/

namespace Sys2Proof
namespace Machine

/-! ## BIND (R150, R151) -/

/-- A completion leaves the registry as a binding left it: the bound slot holds the handler, and every
other one what it held. -/
theorem State.slot_complete_bindSlot (s : State) (inst : Inst) (svc svc' : Svc) (role role' : Role)
    (h : Handler) (c : Completion) :
    ((s.bindSlot inst svc role h).complete c).slot inst svc' role' =
      if svc' = svc ∧ role' = role then h else s.slot inst svc' role' := by
  rw [State.slot_of_registries (State.complete_upper _ c) (State.complete_lower _ c), State.slot_bindSlot]
  simp only [true_and]

/-- What BIND on either instance leaves: its one slot written, nothing outside the registers changed but
for the completion. -/
theorem State.complete_bindSlot_frame (s : State) (inst : Inst) (svc : Svc) (role : Role) (h : Handler) :
    (∀ svc' role', ((s.bindSlot inst svc role h).complete .none).slot inst svc' role' =
      if svc' = svc ∧ role' = role then h else s.slot inst svc' role') ∧
    ((s.bindSlot inst svc role h).complete .none).env = s.env ∧
    ((s.bindSlot inst svc role h).complete .none).build = s.build ∧
    ((s.bindSlot inst svc role h).complete .none).ghost = s.ghost ∧
    ((s.bindSlot inst svc role h).complete .none).events = s.events ++ [.completed .none] :=
  ⟨fun _ _ => s.slot_complete_bindSlot .., by simp⟩

theorem exec_bindU (svc : Svc) (role : Role) (h : Handler) (s : State) :
    exec (.bindU svc role h) s = .next ((s.bindSlot .upper svc role h).complete .none) := rfl

theorem exec_bindL (svc : Svc) (role : Role) (h : Handler) (s : State) :
    exec (.bindL svc role h) s = .next ((s.bindSlot .lower svc role h).complete .none) := rfl

/-- Settles O11: on either instance BIND binds its slot and completes, and only that instance's registry
is written among the registers. -/
theorem bindWritesOneSlot : Obligations.BindWritesOneSlot := by
  intro svc role handler s
  obtain ⟨hbyteU, -⟩ := Laws.CommandByte.bindU svc role handler
  obtain ⟨hbyteL, -⟩ := Laws.CommandByte.bindL svc role handler
  refine ⟨hbyteU, hbyteL, ?_, ?_⟩
  · exact ⟨_, exec_bindU svc role handler s, rfl, s.complete_bindSlot_frame .upper svc role handler⟩
  · exact ⟨_, exec_bindL svc role handler s, rfl, s.complete_bindSlot_frame .lower svc role handler⟩

/-! ## The inbound gate (R152, R153) -/

/-- A command with an inbound slot is a body behind the gate of that slot. -/
theorem exec_eq_gated {i : Instr} {inst : Inst} {svc : Svc} {role : Role}
    (h : inboundSlot i = some (inst, svc, role)) :
    ∃ body, ∀ s, exec i s = gated inst svc role body s := by
  cases i with
  | bindU | bindL | decodeFrame | encodeFrame | ptqAdd | ptqRemove => cases h
  | _ =>
    cases h
    exact ⟨_, fun _ => rfl⟩

/-- Settles O13: the gate of a NULL slot completes at once (`gated_null`). -/
theorem nullInboundSlotIsSilent : Obligations.NullInboundSlotIsSilent := by
  intro i inst svc role s hslot hnull
  obtain ⟨body, hbody⟩ := exec_eq_gated hslot
  rw [hbody, gated_null hnull]
  rfl

/-! ## Illegal command bytes (R156) -/

theorem runOctets_illegal {run : Instr → State → Result} {octets : Octets} {cmd : Byte}
    (h : decode octets = .error (.illegalCommand cmd)) (s : State) :
    runOctets run octets s = .next (s.complete .cmdIllegal) := by
  simp only [runOctets, h, runRejected]

/-- Settles O6: the octets are taken and rejected, which leaves only the completion. -/
theorem illegalCommandHasNoEffect : Obligations.IllegalCommandHasNoEffect := by
  intro s cmd operands more hinbox hillegal
  rw [step_command hinbox, runOctets_illegal hillegal, State.dropInput_eq hinbox]
  rfl

end Machine
end Sys2Proof
end

section
/-!
PROOFS. Rules for the parts of a command: from what a state shows (registers, inputs, events) each shared
operation, and each call whose handler issues nothing or takes a known reply, leads to a state that shows
what the rule says. The statements about primitives are assembled from these rules.
-/

namespace Sys2Proof
namespace Machine

/-! ## What a state shows -/

/-- `t` has these registers, inputs and events, and the build parameters and slots of `s`. -/
structure State.Reaches (s t : State) (r : Registers) (e : Env) (es : List Event) : Prop where
  registers : t.registers = r
  env : t.env = e
  events : t.events = es
  build : t.build = s.build
  upper : r.upper = s.upper
  lower : r.lower = s.lower

/-- A part of a command ends in a state that shows this. -/
def State.Answers (s : State) (result : Result) (r : Registers) (e : Env) (es : List Event) : Prop :=
  ∃ t, result = .next t ∧ s.Reaches t r e es

namespace State.Reaches

theorem refl (s : State) : s.Reaches s s.registers s.env s.events := ⟨rfl, rfl, rfl, rfl, rfl, rfl⟩

variable {s t : State} {r : Registers} {e : Env} {es : List Event} (h : s.Reaches t r e es)
include h

/-! ### Reading -/

theorem trxState : t.trxState = r.trxState := congrArg Registers.trxState h.registers
theorem dsn : t.dsn = r.dsn := congrArg Registers.dsn h.registers
theorem txHandle : t.txHandle = r.txHandle := congrArg Registers.txHandle h.registers
theorem ptq : t.ptq = r.ptq := congrArg Registers.ptq h.registers
theorem upper_eq : t.upper = s.upper := (congrArg Registers.upper h.registers).trans h.upper
theorem lower_eq : t.lower = s.lower := (congrArg Registers.lower h.registers).trans h.lower

theorem slot (i : Inst) (v : Svc) (role : Role) : t.slot i v role = s.slot i v role :=
  State.slot_of_registries h.upper_eq h.lower_eq i v role

theorem replies : t.env.replies = e.replies := congrArg Env.replies h.env

/-! ### Writing -/

theorem setGhost (g : Ghost) : s.Reaches (t.setGhost g) r e es :=
  ⟨h.registers, h.env, h.events, h.build, h.upper, h.lower⟩

theorem noteRequest (v : Svc) : s.Reaches (t.noteRequest v) r e es := h.setGhost _
theorem beginConfirm (v : Svc) : s.Reaches (t.beginConfirm v) r e es := h.setGhost _
theorem endConfirm (v : Svc) (b : Bool) : s.Reaches (t.endConfirm v b) r e es := h.setGhost _

theorem log (ev : Event) : s.Reaches (t.log ev) r e (es ++ [ev]) :=
  ⟨h.registers, h.env, congrArg (· ++ [ev]) h.events, h.build, h.upper, h.lower⟩

theorem complete (c : Completion) : s.Reaches (t.complete c) r e (es ++ [.completed c]) := h.log _

theorem emit (c : OutCall) : s.Reaches (t.emit c) r e (es ++ [.out c]) := by
  unfold State.emit
  cases c.args.role with
  | request => exact (h.log (.out c)).setGhost _
  | confirm => exact h.log (.out c)
  | indication => exact h.log (.out c)

theorem setTrxState (v : TrxState) : s.Reaches (t.setTrxState v) { r with trxState := v } e es :=
  ⟨congrArg (fun r : Registers => { r with trxState := v }) h.registers, h.env, h.events, h.build,
    h.upper, h.lower⟩

theorem setDsn (v : BitVec 8) : s.Reaches (t.setDsn v) { r with dsn := v } e es :=
  ⟨congrArg (fun r : Registers => { r with dsn := v }) h.registers, h.env, h.events, h.build,
    h.upper, h.lower⟩

theorem setDataStatus (v : Status) : s.Reaches (t.setDataStatus v) { r with dataStatus := v } e es :=
  ⟨congrArg (fun r : Registers => { r with dataStatus := v }) h.registers, h.env, h.events, h.build,
    h.upper, h.lower⟩

theorem setTxHandle (v : BitVec 8) : s.Reaches (t.setTxHandle v) { r with txHandle := v } e es :=
  ⟨congrArg (fun r : Registers => { r with txHandle := v }) h.registers, h.env, h.events, h.build,
    h.upper, h.lower⟩

theorem setPtq (v : List PtqEntry) : s.Reaches (t.setPtq v) { r with ptq := v } e es :=
  ⟨congrArg (fun r : Registers => { r with ptq := v }) h.registers, h.env, h.events, h.build,
    h.upper, h.lower⟩

theorem sampleTime : s.Reaches t.sampleTime.2 r t.sampleTime.2.env es :=
  ⟨t.sampleTime_registers.trans h.registers, rfl, t.sampleTime_events.trans h.events,
    t.sampleTime_build.trans h.build, h.upper, h.lower⟩

theorem next : s.Answers (.next t) r e es := ⟨t, rfl, h⟩

theorem finish : s.Answers (finish t) r e (es ++ [.completed .none]) := (h.complete .none).next

end State.Reaches

/-! ## Sequencing and gates -/

namespace State.Answers

variable {s : State} {result : Result} {r r' : Registers} {e e' : Env} {es es' : List Event}

theorem andThen (h : s.Answers result r e es) {k : State → Result}
    (hk : ∀ t, s.Reaches t r e es → s.Answers (k t) r' e' es') :
    s.Answers (result.andThen k) r' e' es' := by
  obtain ⟨t, rfl, ht⟩ := h
  exact hk t ht

/-- The four conjuncts by which the statements describe the state a command ends in. -/
theorem shows (h : s.Answers result r e es) :
    ∃ t, result = .next t ∧ t.registers = r ∧ t.env = e ∧ t.build = s.build ∧ t.events = es := by
  obtain ⟨t, ht, hreach⟩ := h
  exact ⟨t, ht, hreach.registers, hreach.env, hreach.build, hreach.events⟩

theorem andFinish (h : s.Answers result r e es) :
    s.Answers (result.andThen finish) r e (es ++ [.completed .none]) :=
  h.andThen fun _ ht => ht.finish

theorem gated {i : Inst} {v : Svc} {role : Role} {b : State → Result} {t : State}
    (hslot : t.slot i v role ≠ 0#32) (h : s.Answers (b t) r e es) : s.Answers (gated i v role b t) r e es := by
  rw [gated_bound hslot]
  exact h

theorem whileConfirming {v : Svc} {b : State → Result} {t : State}
    (h : s.Answers (b (t.beginConfirm v)) r e es) :
    s.Answers (whileConfirming v b t) r e (es ++ [.completed .none]) :=
  h.andThen fun _ hu => (hu.endConfirm _ _).finish

end State.Answers

/-! ## Calls -/

/-- The reply of a handler that issues no command and returns. -/
def Reply.silent : Reply := { commands := [], returns := true }

/-- With the replies `before` the Call issues no command and returns, and leaves the replies `after`: no
reply is left, or the slot is NULL, or the next reply is silent. -/
inductive SilentCall (s : State) (a : OutArgs) : (before after : List Reply) → Prop
  | quiet : SilentCall s a [] []
  | null (replies : List Reply) (h : s.slot a.inst a.svc a.role = 0#32) : SilentCall s a replies replies
  | reply (rest : List Reply) (h : s.slot a.inst a.svc a.role ≠ 0#32) :
      SilentCall s a (.silent :: rest) rest

theorem SilentCall.of_nil {s : State} {a : OutArgs} {replies : List Reply} (h : replies = []) :
    SilentCall s a replies replies := by
  subst h
  exact .quiet

theorem SilentCall.of_quiet_or_null {s : State} {a : OutArgs}
    (h : s.quiet ∨ s.slot a.inst a.svc a.role = 0#32) :
    SilentCall s a s.env.replies s.env.replies := by
  rcases h with hquiet | hnull
  · exact .of_nil hquiet
  · exact .null _ hnull

theorem SilentCall.of_quiet {s : State} (a : OutArgs) (h : s.quiet) :
    SilentCall s a s.env.replies s.env.replies := .of_nil h

/-- A list of replies that is silent for the Call, whether its slot is bound or not. -/
theorem SilentCall.of_reply_if_bound (s : State) (a : OutArgs) (rest : List Reply) :
    SilentCall s a ((if s.slot a.inst a.svc a.role = 0#32 then [] else [.silent]) ++ rest) rest := by
  split
  · exact .null _ ‹_›
  · exact .reply _ ‹_›

/-- The state in which the commands of a called handler run: its OutCall is out and its reply taken. -/
def duringCall (a : OutArgs) (s : State) : State :=
  (s.emit { handler := s.slot a.inst a.svc a.role, args := a }).dropReply

namespace State.Reaches

variable {s t : State} {r : Registers} {e : Env} {es : List Event} (h : s.Reaches t r e es)
include h

theorem duringCall {a : OutArgs} {reply : Reply} {rest : List Reply}
    (hslot : s.slot a.inst a.svc a.role ≠ 0#32) (hreplies : e.replies = reply :: rest) :
    s.Reaches (duringCall a t) r { e with replies := rest } (es ++ outEvents s a) where
  registers := (h.emit _).registers
  env := by
    rw [Machine.duringCall, State.dropReply_env, (h.emit _).env, hreplies, List.tail_cons]
  events := by
    rw [Machine.duringCall, State.dropReply_events, (h.emit _).events, h.slot, outEvents,
      if_neg hslot]
  build := (h.emit _).build
  upper := h.upper
  lower := h.lower

/-- The call of a handler that takes a reply: the reply's commands, then the return (R157, R159). -/
theorem callIfPresent_reply {a : OutArgs} {reply : Reply} {rest : List Reply}
    (hslot : s.slot a.inst a.svc a.role ≠ 0#32) (hreplies : e.replies = reply :: rest) :
    callIfPresent invokeHandler a t =
      (runAll exec reply.commands (Machine.duringCall a t)).andThen (handlerReturns reply) :=
  callIfPresent_cons (by rwa [h.slot]) (h.replies.trans hreplies)

/-- A call whose handler returns leads to where the handler's commands lead. -/
theorem call_reply {a : OutArgs} {reply : Reply} {rest : List Reply} {r' : Registers} {e' : Env}
    {es' : List Event} (hslot : s.slot a.inst a.svc a.role ≠ 0#32) (hreplies : e.replies = reply :: rest)
    (hreturns : reply.returns = true)
    (hrun : ∀ m, s.Reaches m r { e with replies := rest } (es ++ outEvents s a) →
      s.Answers (runAll exec reply.commands m) r' e' es') :
    s.Answers (callIfPresent invokeHandler a t) r' e' es' := by
  rw [h.callIfPresent_reply hslot hreplies]
  refine (hrun _ (h.duringCall hslot hreplies)).andThen fun u hu => ?_
  rw [handlerReturns, if_pos hreturns]
  exact hu.next

theorem afterCall (a : OutArgs) : s.Reaches (afterCall a t) r e (es ++ outEvents s a) := by
  unfold Machine.afterCall
  rw [h.slot, outEvents]
  split
  · rw [List.append_nil]; exact h
  · exact h.emit _

/-- A call whose handler issues nothing leaves its OutCall, if the slot is bound, and nothing else. -/
theorem call_silent {a : OutArgs} {rest : List Reply} (hsilent : SilentCall s a e.replies rest) :
    s.Answers (callIfPresent invokeHandler a t) r { e with replies := rest }
      (es ++ outEvents s a) := by
  have hevent (hcall : t.quiet ∨ t.slot a.inst a.svc a.role = 0#32) :
      s.Answers (callIfPresent invokeHandler a t) r e (es ++ outEvents s a) :=
    ⟨_, callIfPresent_silent hcall, h.afterCall a⟩
  generalize hbefore : e.replies = before at hsilent
  cases hsilent with
  | quiet =>
    have hquiet : t.quiet := h.replies.trans hbefore
    rw [← hbefore]
    exact hevent (.inl hquiet)
  | null _ hnull =>
    rw [← hbefore]
    exact hevent (.inr (by rwa [h.slot]))
  | reply _ hslot => exact h.call_reply hslot hbefore rfl fun _ hm => hm.next

theorem callAndFinish {a : OutArgs} {rest : List Reply} (hsilent : SilentCall s a e.replies rest) :
    s.Answers (callAndFinish invokeHandler a t) r { e with replies := rest }
      (es ++ outEvents s a ++ [.completed .none]) :=
  (h.call_silent hsilent).andFinish

theorem confirmAndFinish {a : OutArgs} {rest : List Reply} (hsilent : SilentCall s a e.replies rest) :
    s.Answers (confirmAndFinish invokeHandler a t) r { e with replies := rest }
      (es ++ outEvents s a ++ [.completed .none]) :=
  ((h.beginConfirm a.svc).call_silent hsilent).whileConfirming

end State.Reaches

/-- Running one encoded command is running the command. -/
theorem runAll_encode {i : Instr} (hwf : i.wellFormed = true) (s : State) :
    runAll exec [encode i] s = exec i s := by
  have hdecode : decode (encode i) = .ok (i, []) := by
    rw [← commandRoundTrip i [] hwf, List.append_nil]
  rw [runAll_cons hdecode]
  cases exec i s <;> rfl

/-- A command whose last Call's handler has run its commands with the answer `inner`, and which then only
completes, ends as the statements say (R157, R159). -/
theorem endsAfterHandler_andThen {reply : Reply} {inner : Result} {k : State → Result}
    (hk : ∀ t, inner = .next t → t.Answers (k t) t.registers t.env (t.events ++ [.completed .none])) :
    endsAfterHandler reply inner ((inner.andThen (handlerReturns reply)).andThen k) := by
  cases inner with
  | fault e => rfl
  | refused e => rfl
  | next t =>
    by_cases hreturns : reply.returns = true
    · obtain ⟨u, hu, hreach⟩ := hk t rfl
      simp only [endsAfterHandler, handlerReturns, hreturns, andThen_next, if_true]
      exact ⟨u, hu, hreach.registers, hreach.env, hreach.build, hreach.events⟩
    · simp [endsAfterHandler, handlerReturns, hreturns]

/-- A driver's Confirm that is passed on to a handler that takes a reply. -/
theorem State.Reaches.confirmAndFinish_reply {s t : State} {r : Registers} {e : Env} {es : List Event}
    (h : s.Reaches t r e es) {a : OutArgs} {reply : Reply} {rest : List Reply}
    (hslot : s.slot a.inst a.svc a.role ≠ 0#32) (hreplies : e.replies = reply :: rest) :
    endsAfterHandler reply (runAll exec reply.commands (Machine.duringCall a (t.beginConfirm a.svc)))
      (Machine.confirmAndFinish invokeHandler a t) := by
  unfold Machine.confirmAndFinish whileConfirming
  rw [(h.beginConfirm a.svc).callIfPresent_reply hslot hreplies]
  exact endsAfterHandler_andThen fun u _ => ((State.Reaches.refl u).endConfirm _ _).finish

end Machine
end Sys2Proof
end

section
/-!
PROOFS. The transceiver state machine (42_trx_state_machine.md): SETTRX, DATA, CCA and ED, and the
confirms that are only passed on.
-/

namespace Sys2Proof
namespace Machine

/-! ## States and their codes (R100) -/

theorem TrxState.ofStatus_code (v : TrxState) : TrxState.ofStatus v.code = some v := by
  cases v <;> decide

theorem TrxState.code_of_ofStatus {status : Status} {v : TrxState} (h : TrxState.ofStatus status = some v) :
    v.code = status := by
  unfold TrxState.ofStatus at h
  split_ifs at h with h1 h2 h3 h4 h5 h6
  all_goals cases h
  exacts [h1.symm, h2.symm, h3.symm, h4.symm, h5.symm, h6.symm]

theorem acceptedTarget_iff (target : Status) :
    acceptedTarget target = true ↔
      target ∈ [Status.rxOn, Status.trxOff, Status.txOn, Status.forceTrxOff] := by
  simp [acceptedTarget, or_assoc]

/-! ## SETTRX (R170 to R173) -/

/-- The one Call of `SetTrxBody` (R171): the request to the driver for an accepted target, else the
immediate confirm with the sentinel. -/
def setTrxCall (target : Status) : OutArgs :=
  if acceptedTarget target then .setTrxRequest target else .setTrxConfirm Status.busyRx

theorem setTrxBody_eq (f : Invoke) (target : Status) (s : State) :
    setTrxBody f target s = callIfPresent f (setTrxCall target) (s.noteRequest .setTrx) := by
  unfold setTrxBody setTrxCall
  cases acceptedTarget target <;> rfl

/-- The registers after a SETTRX.cnf (R173; D24): a status that is one of the six states is tracked. -/
def Registers.track (r : Registers) (status : Status) : Registers :=
  match TrxState.ofStatus status with
  | some v => { r with trxState := v }
  | none => r

theorem Registers.track_code (r : Registers) (v : TrxState) : r.track v.code = { r with trxState := v } := by
  rw [Registers.track, TrxState.ofStatus_code]

theorem Registers.track_of_no_code (r : Registers) {status : Status}
    (h : ∀ v : TrxState, v.code ≠ status) : r.track status = r := by
  unfold Registers.track
  split
  · rename_i v hv
    exact absurd (TrxState.code_of_ofStatus hv) (h v)
  · rfl

/-- The two clauses by which the statements pin the tracked registers. -/
theorem Registers.track_clauses {r r' : Registers} {status : Status} (h : r' = r.track status) :
    (∀ v : TrxState, v.code = status → r' = { r with trxState := v }) ∧
      ((∀ v : TrxState, v.code ≠ status) → r' = r) := by
  subst h
  exact ⟨fun v hv => hv ▸ r.track_code v, r.track_of_no_code⟩

/-- Only the status `TX_ON` brings the registers into `TX_ON`. -/
theorem Registers.track_ne_txOn {r : Registers} {status : Status} (hr : r.trxState ≠ .txOn)
    (hstatus : status ≠ Status.txOn) : (r.track status).trxState ≠ .txOn := by
  unfold Registers.track
  split
  · rename_i v hv
    rintro rfl
    exact hstatus (TrxState.code_of_ofStatus hv).symm
  · exact hr

theorem octetsOf_one (v : BitVec 8) : octetsOf 1 v = [v] := by
  simp only [octetsOf, leOctets, BitVec.ofNat_toNat, BitVec.setWidth_eq]

theorem exec_setTrxReq {target : Status} {s : State} (h : s.slot .upper .setTrx .request ≠ 0#32) :
    exec (.setTrxReq target) s = (setTrxBody invokeHandler target s).andThen finish :=
  gated_bound (b := fun s => (setTrxBody invokeHandler target s).andThen finish) h

theorem exec_setTrxCnf {status : Status} {s : State} (h : s.slot .lower .setTrx .confirm ≠ 0#32) :
    exec (.setTrxCnf status) s =
      confirmAndFinish invokeHandler (.setTrxConfirm status) (s.trackStatus status) :=
  gated_bound
    (b := fun s => confirmAndFinish invokeHandler (.setTrxConfirm status) (s.trackStatus status)) h

namespace State.Reaches

variable {s t : State} {r : Registers} {e : Env} {es : List Event} (h : s.Reaches t r e es)
include h

theorem trackStatus (status : Status) : s.Reaches (t.trackStatus status) (r.track status) e es := by
  unfold State.trackStatus Registers.track
  cases TrxState.ofStatus status with
  | none => exact h
  | some v => exact h.setTrxState v

theorem setTrxBody_silent {target : Status} {rest : List Reply}
    (hsilent : SilentCall s (setTrxCall target) e.replies rest) :
    s.Answers (setTrxBody invokeHandler target t) r { e with replies := rest }
      (es ++ outEvents s (setTrxCall target)) := by
  rw [setTrxBody_eq]
  exact (h.noteRequest .setTrx).call_silent hsilent

theorem exec_setTrxCnf {status : Status} {rest : List Reply}
    (hslot : s.slot .lower .setTrx .confirm ≠ 0#32)
    (hsilent : SilentCall s (.setTrxConfirm status) e.replies rest) :
    s.Answers (exec (.setTrxCnf status) t) (r.track status) { e with replies := rest }
      (es ++ outEvents s (.setTrxConfirm status) ++ [.completed .none]) := by
  rw [Machine.exec_setTrxCnf (by rwa [h.slot])]
  exact (h.trackStatus status).confirmAndFinish hsilent

/-- An internal SETTRX request to a driver that confirms inline (R158): request, confirm upward, and the
confirm's own completion, with the confirmed state tracked. -/
theorem setTrxBody_confirmed {target status : Status} {more rest : List Reply}
    (hcall : setTrxCall target = .setTrxRequest target) (hreq : s.slot .lower .setTrx .request ≠ 0#32)
    (hcnf : s.slot .lower .setTrx .confirm ≠ 0#32) (hreplies : e.replies = confirmsTrx status :: more)
    (hsilent : SilentCall s (.setTrxConfirm status) more rest) :
    s.Answers (setTrxBody invokeHandler target t) (r.track status) { e with replies := rest }
      (es ++ outEvents s (.setTrxRequest target) ++ outEvents s (.setTrxConfirm status) ++
        [.completed .none]) := by
  rw [setTrxBody_eq, hcall]
  refine (h.noteRequest .setTrx).call_reply (a := .setTrxRequest target) hreq hreplies rfl fun _ hm => ?_
  rw [confirmsTrx, runAll_encode rfl]
  exact hm.exec_setTrxCnf hcnf hsilent

end State.Reaches

theorem exec_setTrxReq_quiet {s : State} (target : Status) (hquiet : s.quiet)
    (hslot : s.slot .upper .setTrx .request ≠ 0#32) :
    s.Answers (exec (.setTrxReq target) s) s.registers s.env
      (s.events ++ outEvents s (setTrxCall target) ++ [.completed .none]) := by
  rw [exec_setTrxReq hslot]
  exact ((State.Reaches.refl s).setTrxBody_silent (.of_quiet _ hquiet)).andFinish

/-- Settles O15: one Call, which `setTrxCall` selects by the target. -/
theorem setTrxRequestForwardedOrRefused : Obligations.SetTrxRequestForwardedOrRefused := by
  refine ⟨fun target => congrArg (0x10#8 :: ·) (octetsOf_one target), ?_⟩
  intro target s hquiet hslot
  obtain ⟨t, ht, hreach⟩ := exec_setTrxReq_quiet target hquiet hslot
  refine ⟨t, ht, hreach.registers, hreach.env, hreach.build, fun htarget => ?_, fun htarget => ?_⟩
  · rw [← acceptedTarget_iff] at htarget
    rw [hreach.events, setTrxCall, if_pos htarget]
  · rw [← acceptedTarget_iff] at htarget
    rw [hreach.events, setTrxCall, if_neg htarget]

/-- Settles O16: the status is tracked first, so the reply's commands run from the tracked state. -/
theorem setTrxConfirmTracksState : Obligations.SetTrxConfirmTracksState := by
  intro status s hslot
  refine ⟨fun hsilent => ?_, fun reply rest hupper hreplies => ?_⟩
  · obtain ⟨t, ht, hreach⟩ := (State.Reaches.refl s).exec_setTrxCnf (status := status) hslot
      (.of_quiet_or_null hsilent)
    obtain ⟨hstate, hother⟩ := Registers.track_clauses hreach.registers
    exact ⟨t, ht, hstate, hother, hreach.env, hreach.build, hreach.events⟩
  · have htracked := (State.Reaches.refl s).trackStatus status
    have hreach := (htracked.beginConfirm .setTrx).duringCall (a := .setTrxConfirm status) hupper hreplies
    obtain ⟨hstate, hother⟩ := Registers.track_clauses hreach.registers
    refine ⟨_, hstate, hother, hreach.env, hreach.build, hreach.events, ?_⟩
    rw [exec_setTrxCnf hslot]
    exact htracked.confirmAndFinish_reply (a := .setTrxConfirm status) hupper hreplies

/-- Settles O46: SETTRX.cnf alone writes the register (`exec_keepsUnwritten`), it writes any of the six
states, and `BUSY_RX` and `BUSY_TX` are no accepted targets. -/
theorem onlySetTrxConfirmChangesState : Obligations.OnlySetTrxConfirmChangesState := by
  refine ⟨fun i s t hi havoids hrun => ?_, fun state s hquiet hslot => ?_,
    fun target s htarget hquiet hslot => ?_⟩
  · exact (exec_keepsUnwritten (by simp [hi]) havoids hrun).trxState (by simp)
  · obtain ⟨t, ht, hreach⟩ := (State.Reaches.refl s).exec_setTrxCnf (status := state.code) hslot
      (.of_quiet _ hquiet)
    exact ⟨t, ht, by rw [hreach.trxState, Registers.track_code]⟩
  · have hcall : setTrxCall target = .setTrxConfirm Status.busyRx := by
      rcases htarget with rfl | rfl <;> rfl
    obtain ⟨t, ht, hreach⟩ := exec_setTrxReq_quiet target hquiet hslot
    exact ⟨t, ht, hreach.trxState, by rw [hreach.events, hcall]⟩

/-! ## DATA.req refused (R176, R177) -/

theorem exec_dataReq {q : EncodeRequest} {s : State} (h : s.slot .upper .data .request ≠ 0#32) :
    exec (.dataReq q) s =
      if s.trxState ≠ .trxOff then
        dataRefuse invokeHandler s.trxState.code ((s.noteRequest .data).noteRequest .setTrx)
      else if 127 < q.payload.length then
        dataRefuse invokeHandler Status.frameTooLong ((s.noteRequest .data).noteRequest .setTrx)
      else
        (setTrxBody invokeHandler Status.txOn ((s.noteRequest .data).noteRequest .setTrx)).andThen
          (dataAfterSetTrx invokeHandler q) := by
  simp only [exec, execDataReq, dataReqBody, gated_bound h]
  rfl

/-- In TRX_OFF with an acceptable payload DATA.req makes its internal SETTRX request. -/
theorem exec_dataReq_off {q : EncodeRequest} {s : State} (h : s.slot .upper .data .request ≠ 0#32)
    (hoff : s.trxState = .trxOff) (hlength : q.payload.length ≤ 127) :
    exec (.dataReq q) s =
      (setTrxBody invokeHandler Status.txOn ((s.noteRequest .data).noteRequest .setTrx)).andThen
        (dataAfterSetTrx invokeHandler q) := by
  rw [exec_dataReq h, if_neg (not_not_intro hoff), if_neg (Nat.not_lt.mpr hlength)]

/-- What a quiet DATA.req that is refused with a status leaves. -/
theorem dataRefuse_quiet (s : State) (status : Status) (hquiet : s.quiet) :
    s.Answers (dataRefuse invokeHandler status ((s.noteRequest .data).noteRequest .setTrx))
      { s.registers with dataStatus := status } s.env
      (s.events ++ outEvents s (.dataConfirm status) ++ [.completed .none]) :=
  ((((State.Reaches.refl s).noteRequest .data).noteRequest .setTrx).setDataStatus status).callAndFinish
    (.of_quiet _ hquiet)

/-- Settles O17: the state is tested first, before the length of the payload. -/
theorem dataRequestRefusedUnlessOff : Obligations.DataRequestRefusedUnlessOff := by
  intro q s hquiet hslot hstate
  rw [exec_dataReq hslot, if_pos hstate]
  exact (dataRefuse_quiet s s.trxState.code hquiet).shows

/-- Settles O18: in TRX_OFF the length is tested next. -/
theorem dataRequestRefusedOversize : Obligations.DataRequestRefusedOversize := by
  intro q s hquiet hslot hoff hlength
  rw [exec_dataReq hslot, if_neg (not_not_intro hoff), if_pos hlength]
  exact (dataRefuse_quiet s Status.frameTooLong hquiet).shows

/-! ## DATA.req that vanishes (R179) -/

theorem dataAfterSetTrx_vanishes {f : Invoke} {q : EncodeRequest} {s : State} (h : s.trxState ≠ .txOn) :
    dataAfterSetTrx f q s = finish s := if_neg h

theorem State.Reaches.dataAfterSetTrx_vanishes {s t : State} {r : Registers} {e : Env} {es : List Event}
    (h : s.Reaches t r e es) {f : Invoke} {q : EncodeRequest} (hr : r.trxState ≠ .txOn) :
    s.Answers (dataAfterSetTrx f q t) r e (es ++ [.completed .none]) := by
  rw [Machine.dataAfterSetTrx_vanishes (by rwa [h.trxState])]
  exact h.finish

theorem setTrxCall_txOn : setTrxCall Status.txOn = .setTrxRequest Status.txOn := rfl

/-- Settles O19: whatever the driver did, the test of `trxState` after the internal SETTRX request fails,
and the command only completes. -/
theorem dataRequestVanishesUnconfirmed : Obligations.DataRequestVanishesUnconfirmed := by
  intro q s hslot hoff hlength
  have hnotOn : s.registers.trxState ≠ .txOn := by simp [State.registers, hoff]
  have hnoted := ((State.Reaches.refl s).noteRequest .data).noteRequest .setTrx
  rw [exec_dataReq_off hslot hoff hlength]
  refine ⟨fun hsilent => ?_, fun reply rest hdriver hreplies => ?_,
    fun status hdriver hcnf hreplies hstatus => ?_⟩
  · have hbody := hnoted.setTrxBody_silent (target := Status.txOn) (.of_quiet_or_null hsilent)
    exact (hbody.andThen fun _ hm => hm.dataAfterSetTrx_vanishes hnotOn).shows
  · have hrequested := hnoted.noteRequest .setTrx
    have hreach := hrequested.duringCall (a := .setTrxRequest Status.txOn) hdriver hreplies
    refine ⟨_, hreach.registers, hreach.env, hreach.build, hreach.events, fun t hrun hstate => ?_⟩
    rw [setTrxBody_eq, setTrxCall_txOn,
      hrequested.callIfPresent_reply (a := .setTrxRequest Status.txOn) hdriver hreplies, hrun]
    refine endsAfterHandler_andThen fun u hu => ?_
    cases hu
    exact (State.Reaches.refl t).dataAfterSetTrx_vanishes hstate
  · have hbody := hnoted.setTrxBody_confirmed setTrxCall_txOn hdriver hcnf hreplies .quiet
    obtain ⟨t, ht, hreach⟩ := hbody.andThen fun _ hm =>
      hm.dataAfterSetTrx_vanishes (q := q) (f := invokeHandler) (Registers.track_ne_txOn hnotOn hstatus)
    obtain ⟨hcode, hother⟩ := Registers.track_clauses hreach.registers
    refine ⟨t, ht, hcode, hother, hreach.env, hreach.build, ?_⟩
    simp [hreach.events]

/-! ## DATA.req that transmits (R178) -/

/-- The Call that hands the wrapped frame to the driver (R135, R92). -/
def dataCall (b : Build) (dsn : BitVec 8) (q : EncodeRequest) : OutArgs :=
  .dataRequest (ppduWrap (encodeMpdu b.manualFcs Config.fcs16 dsn q))
    (BitVec.ofNat 9 ((encodeMpdu b.manualFcs Config.fcs16 dsn q).length + 6))

/-- The queue entry of a forwarded request (R221). -/
def txEntry (q : EncodeRequest) (now : TimeStamp) : PtqEntry :=
  { handle := q.handle, kind := .data, ackRequired := txAckRequest q.txOptions, timestamp := now }

/-- What DATA.req has written when it calls the driver (D44). -/
def State.recordTx (s : State) (q : EncodeRequest) : State :=
  (ptqAddOp q.handle .data (txAckRequest q.txOptions) ((encodeOp q s).2.setTxHandle q.handle)).2.setDataStatus
    Status.txOn

/-- The registers when DATA.req calls the driver. -/
def Registers.recordTx (r : Registers) (q : EncodeRequest) (now : TimeStamp) : Registers :=
  { r with
    dsn := r.dsn + 1#8
    dataStatus := Status.txOn
    txHandle := q.handle
    ptq := if r.ptq.length = 10 then r.ptq else r.ptq ++ [txEntry q now] }

theorem dataAfterSetTrx_forwards {f : Invoke} {q : EncodeRequest} {s : State} (h : s.trxState = .txOn) :
    dataAfterSetTrx f q s = callAndFinish f (dataCall s.build s.dsn q) (s.recordTx q) := if_pos h

theorem State.sampleTime_of_listed {s : State} {now : TimeStamp} {later : List TimeStamp}
    (h : s.env.timeInput = now :: later) : s.sampleTime.1 = now := by
  simp only [State.sampleTime, h]

/-- PtqAdd samples the time once and leaves the replies; the entry is stored unless the table is full. -/
theorem State.Reaches.ptqAdd {s t : State} {r : Registers} {e : Env} {es : List Event}
    (h : s.Reaches t r e es) (handle : Byte) (kind : TxKind) (ack : Bool) :
    ∃ now e', (∀ x xs, e.timeInput = x :: xs → now = x) ∧ e'.replies = e.replies ∧
      s.Reaches (ptqAddOp handle kind ack t).2
        { r with ptq := if r.ptq.length = 10 then r.ptq else r.ptq ++ [⟨handle, kind, ack, now⟩] } e' es := by
  refine ⟨t.sampleTime.1, t.sampleTime.2.env, fun x xs hx => ?_, ?_, ?_⟩
  · exact State.sampleTime_of_listed (later := xs) (by rw [h.env, hx])
  · rw [State.sampleTime_replies, h.replies]
  · rw [ptqAddOp_eq, h.ptq]
    by_cases hfull : r.ptq.length = 10
    · rw [if_pos hfull, if_pos (show _ = Config.ptqSlots from hfull)]
      exact h.sampleTime
    · rw [if_neg hfull, if_neg (show _ ≠ Config.ptqSlots from hfull)]
      exact h.sampleTime.setPtq _

theorem State.Reaches.recordTx {s t : State} {r : Registers} {e : Env} {es : List Event}
    (h : s.Reaches t r e es) (q : EncodeRequest) :
    ∃ now e', (∀ x xs, e.timeInput = x :: xs → now = x) ∧ e'.replies = e.replies ∧
      s.Reaches (t.recordTx q) (r.recordTx q now) e' es := by
  obtain ⟨now, e', hnow, hreplies, hadded⟩ :=
    ((h.setDsn (t.dsn + 1#8)).setTxHandle q.handle).ptqAdd q.handle .data (txAckRequest q.txOptions)
  refine ⟨now, e', hnow, hreplies, ?_⟩
  rw [Registers.recordTx, ← h.dsn]
  exact hadded.setDataStatus Status.txOn

/-- DATA.req with a driver that confirms TX_ON inline comes to its Call of the driver with everything
recorded (R178, D44). -/
theorem exec_dataReq_confirmed {q : EncodeRequest} {s : State} {more rest : List Reply}
    (hslot : s.slot .upper .data .request ≠ 0#32) (hdriver : s.slot .lower .setTrx .request ≠ 0#32)
    (hcnf : s.slot .lower .setTrx .confirm ≠ 0#32) (hoff : s.trxState = .trxOff)
    (hlength : q.payload.length ≤ 127) (hreplies : s.env.replies = confirmsTrx Status.txOn :: more)
    (hsilent : SilentCall s (.setTrxConfirm Status.txOn) more rest) :
    ∃ t now e', exec (.dataReq q) s = callAndFinish invokeHandler (dataCall s.build s.dsn q) t ∧
      (∀ x xs, s.env.timeInput = x :: xs → now = x) ∧ e'.replies = rest ∧
      s.Reaches t ({ s.registers with trxState := .txOn }.recordTx q now) e'
        (s.events ++ outEvents s (.setTrxRequest Status.txOn) ++
          outEvents s (.setTrxConfirm Status.txOn) ++ [.completed .none]) := by
  have hnoted := ((State.Reaches.refl s).noteRequest .data).noteRequest .setTrx
  obtain ⟨m, hm, hreach⟩ := hnoted.setTrxBody_confirmed setTrxCall_txOn hdriver hcnf hreplies hsilent
  obtain ⟨now, e', hnow, he', hrecorded⟩ := hreach.recordTx q
  refine ⟨m.recordTx q, now, e', ?_, hnow, he', hrecorded⟩
  rw [exec_dataReq_off hslot hoff hlength, hm, andThen_next, dataAfterSetTrx_forwards hreach.trxState,
    hreach.build, hreach.dsn]
  rfl

/-- Settles O20: the Call of the driver is the last thing the request does. -/
theorem dataRequestTransmits : Obligations.DataRequestTransmits := by
  intro q s hslot hdriver hcnf hoff hlength hreplies
  obtain ⟨m, now, e', hexec, hnow, he', hreach⟩ :=
    exec_dataReq_confirmed hslot hdriver hcnf hoff hlength hreplies .quiet
  obtain ⟨t, ht, hend⟩ := hreach.callAndFinish (a := dataCall s.build s.dsn q) (.of_nil he')
  exact ⟨t, now, hexec.trans ht, hnow, hend.registers, hend.build, hend.events⟩

/-! ## DATA.cnf (R181) -/

/-- The queue with the first entry of the handle removed, if there is one (R223). -/
def resolved (handle : Byte) (queue : List PtqEntry) : List PtqEntry :=
  (removeFirst handle queue).getD queue

theorem resolves_resolved (handle : Byte) (queue : List PtqEntry) :
    resolves handle queue (resolved handle queue) := by
  constructor
  · intro habsent
    rw [resolved, removeFirst_eq_none.mpr habsent, Option.getD_none]
  · intro earlier e later hqueue hearlier he
    rw [resolved, removeFirst_eq_some.mpr ⟨earlier, e, later, hqueue, hearlier, he, rfl⟩, Option.getD_some]

theorem setTrxCall_rxOn : setTrxCall Status.rxOn = .setTrxRequest Status.rxOn := rfl

/-- What DATA.cnf does while its request is still in flight: the internal SETTRX request, and the rest. -/
def dataCnfWork (status : Status) (s : State) : Result :=
  (setTrxBody invokeHandler Status.rxOn s).andThen (dataCnfAfterSetTrx invokeHandler status)

theorem exec_dataCnf {status : Status} {s : State} (h : s.slot .lower .data .confirm ≠ 0#32) :
    exec (.dataCnf status) s = whileConfirming .data (dataCnfWork status) s :=
  gated_bound (b := whileConfirming .data (dataCnfWork status)) h

namespace State.Reaches

variable {s t : State} {r : Registers} {e : Env} {es : List Event} (h : s.Reaches t r e es)
include h

theorem ptqRemove (handle : Byte) :
    s.Reaches (ptqRemoveOp handle t).2 { r with ptq := resolved handle r.ptq } e es := by
  rw [← h.ptq, resolved]
  obtain ⟨hop, hremove⟩ | ⟨queue, hop, hremove⟩ := ptqRemoveOp_eq handle t
  · rw [hop, hremove, Option.getD_none, h.ptq]
    exact h
  · rw [hop, hremove, Option.getD_some]
    exact h.setPtq queue

theorem dataCnfAfterSetTrx {status : Status} {rest : List Reply}
    (hsilent : SilentCall s (.dataConfirm status) e.replies rest) :
    s.Answers (dataCnfAfterSetTrx invokeHandler status t)
      { r with dataStatus := status, ptq := resolved r.txHandle r.ptq } { e with replies := rest }
      (es ++ outEvents s (.dataConfirm status)) := by
  unfold Machine.dataCnfAfterSetTrx
  rw [h.txHandle]
  exact ((h.ptqRemove r.txHandle).setDataStatus status).call_silent hsilent

/-- A DATA.cnf with no reply left: RX_ON is requested and not confirmed. -/
theorem exec_dataCnf_quiet {status : Status} (hslot : s.slot .lower .data .confirm ≠ 0#32)
    (hquiet : e.replies = []) :
    s.Answers (exec (.dataCnf status) t)
      { r with dataStatus := status, ptq := resolved r.txHandle r.ptq } e
      (es ++ outEvents s (.setTrxRequest Status.rxOn) ++
        outEvents s (.dataConfirm status) ++ [.completed .none]) := by
  rw [exec_dataCnf (by rwa [h.slot])]
  refine State.Answers.whileConfirming ?_
  exact ((h.beginConfirm .data).setTrxBody_silent (.of_nil hquiet)).andThen
    fun _ hm => hm.dataCnfAfterSetTrx (.of_nil hquiet)

end State.Reaches

/-- Settles O21: the two calls of a quiet DATA.cnf, and the resolved queue. -/
theorem dataConfirmResolvesEntry : Obligations.DataConfirmResolvesEntry := by
  intro status s hquiet hslot
  obtain ⟨t, ht, hreach⟩ := (State.Reaches.refl s).exec_dataCnf_quiet (status := status) hslot hquiet
  have hqueue : resolves s.txHandle s.ptq t.ptq := hreach.ptq ▸ resolves_resolved s.txHandle s.ptq
  obtain ⟨habsent, hfirst⟩ := hqueue
  refine ⟨t, ht, ?_, habsent, hfirst, hreach.env, hreach.build, hreach.events⟩
  rw [hreach.registers, hreach.ptq]

/-- Settles O22: the confirm comes when the entry is recorded, and resolves exactly that entry. -/
theorem confirmInsideTransmitResolves : Obligations.ConfirmInsideTransmitResolves := by
  intro q status s hslot hdriver hcnf hdata hdataCnf hoff hlength hroom hnew hreplies
  obtain ⟨m, now, e', hexec, -, he', hreach⟩ :=
    exec_dataReq_confirmed hslot hdriver hcnf hoff hlength hreplies (.of_reply_if_bound s _ _)
  have hcall := hreach.call_reply (a := dataCall s.build s.dsn q) hdata he' rfl fun u hu => by
    rw [runAll_encode rfl]
    exact hu.exec_dataCnf_quiet hdataCnf rfl
  obtain ⟨t, ht, hend⟩ := hcall.andFinish
  refine ⟨t, hexec.trans ht, ?_⟩
  have hqueue : resolved q.handle (s.ptq ++ [txEntry q now]) = s.ptq := by
    rw [(resolves_resolved _ _).2 s.ptq (txEntry q now) [] rfl hnew rfl, List.append_nil]
  rw [hend.registers]
  simp [Registers.recordTx, State.registers, hroom.ne, hqueue]

/-- Settles O55: the entry is resolved in what the driver's handler leaves. -/
theorem dataConfirmReturnsToReceive : Obligations.DataConfirmReturnsToReceive := by
  intro status s hslot hdriver
  have hbegun := (State.Reaches.refl s).beginConfirm .data
  rw [exec_dataCnf hslot]
  refine ⟨fun reply rest hreplies hreturns => ?_, fun hcnf hreplies => ?_⟩
  · have hrequested := hbegun.noteRequest .setTrx
    have hreach := hrequested.duringCall (a := .setTrxRequest Status.rxOn) hdriver hreplies
    refine ⟨_, hreach.registers, hreach.env, hreach.build, hreach.events, fun t hrun hquiet => ?_⟩
    have hwork : dataCnfWork status (s.beginConfirm .data) = dataCnfAfterSetTrx invokeHandler status t := by
      rw [dataCnfWork, setTrxBody_eq, setTrxCall_rxOn,
        hrequested.callIfPresent_reply (a := .setTrxRequest Status.rxOn) hdriver hreplies, hrun, andThen_next,
        handlerReturns, if_pos hreturns, andThen_next]
    have hrest := (State.Reaches.refl t).dataCnfAfterSetTrx (status := status) (.of_quiet _ hquiet)
    obtain ⟨u, hu, hend⟩ := State.Answers.whileConfirming (b := dataCnfWork status) (hwork ▸ hrest)
    refine ⟨u, hu, ?_, hend.ptq ▸ resolves_resolved t.txHandle t.ptq, hend.env, hend.build, hend.events⟩
    rw [hend.registers, hend.ptq]
  · have hwork := (hbegun.setTrxBody_confirmed setTrxCall_rxOn hdriver hcnf hreplies .quiet).andThen
      fun _ hm => hm.dataCnfAfterSetTrx (status := status) .quiet
    obtain ⟨u, hu, hend⟩ := State.Answers.whileConfirming (b := dataCnfWork status) hwork
    refine ⟨u, hu, ?_, hend.ptq ▸ resolves_resolved s.txHandle s.ptq, hend.env, hend.build, hend.events⟩
    rw [hend.registers, hend.ptq]
    rfl

/-! ## DATA.ind (R182) -/

theorem afterCall_ghost {a : OutArgs} (h : a.role ≠ .request) (s : State) :
    (afterCall a s).ghost = s.ghost := by
  unfold afterCall
  split
  · rfl
  · rw [State.emit_ghost, if_neg h]

theorem exec_dataInd_error {rxbuf : Octets} {declaredLength : Byte} {s : State} {e : DecodeError}
    (h : s.slot .lower .data .indication ≠ 0#32)
    (hdecode : decodeMpdu s.build.variant rxbuf declaredLength = .error e) :
    exec (.dataInd rxbuf declaredLength) s = .next (s.complete (.decodeError e)) := by
  simp only [exec, execDataInd, dataIndBody, gated_bound h, hdecode]

theorem exec_dataInd_ok {rxbuf : Octets} {declaredLength : Byte} {s : State} {f : Frame}
    (h : s.slot .lower .data .indication ≠ 0#32)
    (hdecode : decodeMpdu s.build.variant rxbuf declaredLength = .ok f) (hquiet : s.quiet) :
    exec (.dataInd rxbuf declaredLength) s =
      .next ((afterCall (.dataIndication f.indication) s).complete .ok) := by
  simp only [exec, execDataInd, dataIndBody, gated_bound h, hdecode, callIfPresent_quiet hquiet, andThen_next]

/-- Settles O23: one case per outcome of the decoder. -/
theorem dataIndicationDispatchesFrame : Obligations.DataIndicationDispatchesFrame := by
  intro rxbuf declaredLength s hquiet hslot
  cases hdecode : decodeMpdu s.build.variant rxbuf declaredLength with
  | error e =>
    have hreach := (State.Reaches.refl s).complete (.decodeError e)
    refine ⟨_, exec_dataInd_error hslot hdecode, hreach.registers, hreach.env, hreach.build,
      s.complete_ghost _, fun e' he => ?_, fun _ hf => nomatch hf⟩
    cases he
    exact hreach.events
  | ok f =>
    have hreach := ((State.Reaches.refl s).afterCall (.dataIndication f.indication)).complete .ok
    refine ⟨_, exec_dataInd_ok hslot hdecode hquiet, hreach.registers, hreach.env, hreach.build,
      afterCall_ghost (by simp [OutArgs.role]) s, (fun _ he => nomatch he), fun f' hf => ?_⟩
    cases hf
    exact hreach.events

/-! ## Requests that only RX_ON lets through (R184, R187) -/

/-- A quiet request that is forwarded in RX_ON, and in any other state confirmed at once. -/
theorem forwardedInRxOn {s : State} (svc : Svc) (confirm request : OutArgs) (hquiet : s.quiet) :
    ∃ t,
      (if s.trxState ≠ .rxOn then callAndFinish invokeHandler confirm (s.noteRequest svc)
        else callAndFinish invokeHandler request (s.noteRequest svc)) = .next t ∧
      t.registers = s.registers ∧ t.env = s.env ∧ t.build = s.build ∧
      (s.trxState ≠ .rxOn → t.events = s.events ++ outEvents s confirm ++ [.completed .none]) ∧
      (s.trxState = .rxOn → t.events = s.events ++ outEvents s request ++ [.completed .none]) := by
  have hcall (a : OutArgs) := ((State.Reaches.refl s).noteRequest svc).callAndFinish (.of_quiet a hquiet)
  by_cases hstate : s.trxState = .rxOn
  · obtain ⟨t, ht, hreach⟩ := hcall request
    rw [if_neg (not_not_intro hstate)]
    exact ⟨t, ht, hreach.registers, hreach.env, hreach.build, absurd hstate, fun _ => hreach.events⟩
  · obtain ⟨t, ht, hreach⟩ := hcall confirm
    rw [if_pos hstate]
    exact ⟨t, ht, hreach.registers, hreach.env, hreach.build, fun _ => hreach.events, (absurd · hstate)⟩

theorem exec_ccaReq {s : State} (h : s.slot .upper .cca .request ≠ 0#32) :
    exec .ccaReq s =
      if s.trxState ≠ .rxOn then
        callAndFinish invokeHandler (.ccaConfirm s.trxState.code) (s.noteRequest .cca)
      else callAndFinish invokeHandler .ccaRequest (s.noteRequest .cca) := by
  simp only [exec, execCcaReq, ccaReqBody, gated_bound h]
  rfl

theorem exec_edReq {s : State} (h : s.slot .upper .ed .request ≠ 0#32) :
    exec .edReq s =
      if s.trxState ≠ .rxOn then
        callAndFinish invokeHandler (.edConfirm s.trxState.code 0#8) (s.noteRequest .ed)
      else callAndFinish invokeHandler .edRequest (s.noteRequest .ed) := by
  simp only [exec, execEdReq, edReqBody, gated_bound h]
  rfl

/-- Settles O24: the gate on RX_ON, with CCA's confirm and request. -/
theorem ccaRequestGatedByState : Obligations.CcaRequestGatedByState := by
  refine ⟨by decide, fun s hquiet hslot => ?_⟩
  rw [exec_ccaReq hslot]
  exact forwardedInRxOn .cca _ _ hquiet

/-- Settles O25: the gate on RX_ON, with ED's confirm and request. -/
theorem edRequestGatedByState : Obligations.EdRequestGatedByState := by
  intro s hquiet hslot
  rw [exec_edReq hslot]
  exact forwardedInRxOn .ed _ _ hquiet

/-! ## Confirms that are passed on (R185, R188, R202, R209) -/

/-- A quiet Confirm that the block only passes on. -/
theorem confirmPassedOn {s : State} {svc : Svc} (a : OutArgs) (hquiet : s.quiet)
    (hslot : s.slot .lower svc .confirm ≠ 0#32) :
    ∃ t, gated .lower svc .confirm (confirmAndFinish invokeHandler a) s = .next t ∧
      t.registers = s.registers ∧ t.env = s.env ∧ t.build = s.build ∧
      t.events = s.events ++ outEvents s a ++ [.completed .none] :=
  (State.Answers.gated hslot ((State.Reaches.refl s).confirmAndFinish (.of_quiet a hquiet))).shows

/-- Settles O26: the four commands are the same body with another Call. -/
theorem confirmsArePassedOn : Obligations.ConfirmsArePassedOn := fun _ hquiet =>
  ⟨fun _ hslot => confirmPassedOn _ hquiet hslot, fun _ _ hslot => confirmPassedOn _ hquiet hslot,
    fun _ _ _ hslot => confirmPassedOn _ hquiet hslot, fun _ _ hslot => confirmPassedOn _ hquiet hslot⟩

end Machine
end Sys2Proof
end

section
/-!
PROOFS. The PIB services (43_pib.md): the attribute bytes, the tests of SET.req, and the one Call of GET.req
and of SET.req.
-/

namespace Sys2Proof
namespace Machine

/-! ## A call that ends a command -/

namespace State.Reaches

variable {s t : State} {r : Registers} {e : Env} {es : List Event} (h : s.Reaches t r e es)
include h

theorem setPib (v : Pib) : s.Reaches (t.setPib v) { r with pib := v } e es :=
  ⟨congrArg (fun r : Registers => { r with pib := v }) h.registers, h.env, h.events, h.build,
    h.upper, h.lower⟩

/-- The last Call of a command, to a handler that takes a reply. -/
theorem callAndFinish_reply {a : OutArgs} {reply : Reply} {rest : List Reply}
    (hslot : s.slot a.inst a.svc a.role ≠ 0#32) (hreplies : e.replies = reply :: rest) :
    endsAfterHandler reply (runAll exec reply.commands (Machine.duringCall a t))
      (Machine.callAndFinish invokeHandler a t) := by
  rw [Machine.callAndFinish, h.callIfPresent_reply hslot hreplies]
  exact endsAfterHandler_andThen fun u _ => (State.Reaches.refl u).finish

end State.Reaches

/-! ## Attributes and their tests (R101, R207; D8) -/

theorem PibAttr.ofByte_eq_none_iff {attr : Byte} : PibAttr.ofByte attr = none ↔ 3 < attr.toNat := by
  unfold PibAttr.ofByte
  split_ifs with h0 h1 h2 h3
  · simp [h0]
  · simp [h1]
  · simp [h2]
  · simp [h3]
  · simp only [true_iff]
    bv_omega

theorem Pib.accepts_currentChannel {p : Pib} {value : BitVec 32} :
    p.accepts .currentChannel value = true ↔
      value.toNat ≤ 26 ∧ p.channelsSupported.getLsbD value.toNat = true := by
  rw [Pib.accepts, Bool.and_eq_true, decide_eq_true_iff]
  rfl

theorem Pib.accepts_channelsSupported {p : Pib} {value : BitVec 32} :
    p.accepts .channelsSupported value = true ↔ value.toNat < 2 ^ 27 := decide_eq_true_iff

theorem Pib.accepts_transmitPower {p : Pib} {value : BitVec 32} :
    p.accepts .transmitPower value = true ↔ value.toNat ≤ 0xBF := decide_eq_true_iff

theorem Pib.accepts_ccaMode {p : Pib} {value : BitVec 32} :
    p.accepts .ccaMode value = true ↔ value.toNat ≤ 0xBF := decide_eq_true_iff

/-! ## GET.req (R200, R201) -/

/-- The one Call of GET.req: the immediate confirm of an attribute above 3 (D32), else the request to the
driver. -/
def getReqCall (attr : Byte) : OutArgs :=
  if 3 < attr.toNat then .getConfirm Status.unsupportedAttribute attr 0#32 else .getRequest attr

theorem exec_getReq {attr : Byte} {s : State} (h : s.slot .upper .get .request ≠ 0#32) :
    exec (.getReq attr) s = callAndFinish invokeHandler (getReqCall attr) (s.noteRequest .get) := by
  simp only [exec, execGetReq, getReqBody, gated_bound h, getReqCall, ← PibAttr.ofByte_eq_none_iff]
  cases PibAttr.ofByte attr <;> rfl

/-- Settles O27: one Call, which `getReqCall` selects by the attribute alone. -/
theorem getRequestForwardedOrUnsupported : Obligations.GetRequestForwardedOrUnsupported := by
  intro attr s hquiet hslot
  have hnoted := (State.Reaches.refl s).noteRequest .get
  obtain ⟨t, ht, hreach⟩ := hnoted.callAndFinish (.of_quiet (getReqCall attr) hquiet)
  rw [exec_getReq hslot]
  refine ⟨t, ht, hreach.registers, hreach.env, hreach.build, fun hattr => ?_, fun hattr => ?_⟩
  · rw [hreach.events, getReqCall, if_pos hattr]
  · rw [hreach.events, getReqCall, if_neg (Nat.not_lt.mpr hattr)]

/-! ## SET.req (R205 to R210) -/

theorem exec_setReq_unknown {attr : Byte} {value : BitVec 32} {s : State}
    (h : s.slot .upper .set .request ≠ 0#32) (hattr : PibAttr.ofByte attr = none) :
    exec (.setReq attr value) s =
      callAndFinish invokeHandler (.setConfirm Status.unsupportedAttribute attr) (s.noteRequest .set) := by
  simp only [exec, execSetReq, setReqBody, gated_bound h, hattr]

/-- A known attribute: the test is on the PIB before the store, and the store comes before the Call. -/
theorem exec_setReq_known {attr : Byte} {a : PibAttr} {value : BitVec 32} {s : State}
    (h : s.slot .upper .set .request ≠ 0#32) (hattr : PibAttr.ofByte attr = some a) :
    exec (.setReq attr value) s =
      if s.pib.accepts a value then
        callAndFinish invokeHandler (.setRequest attr value)
          ((s.noteRequest .set).setPib (s.pib.store a value))
      else callAndFinish invokeHandler (.setConfirm Status.invalidParameter attr) (s.noteRequest .set) := by
  simp only [exec, execSetReq, setReqBody, gated_bound h, hattr]
  rfl

/-- Settles O28: the four clauses are `Pib.accepts` and `Pib.store` attribute by attribute, and the driver
is called from the state with the store. -/
theorem setRequestStoresAcceptedValue : Obligations.SetRequestStoresAcceptedValue := by
  intro attr value stored s hslot hvalue
  obtain ⟨a, hattr, haccepts, rfl⟩ : ∃ a, PibAttr.ofByte attr = some a ∧
      s.pib.accepts a value = true ∧ stored = s.pib.store a value := by
    rcases hvalue with ⟨rfl, hmax, hbit, rfl⟩ | ⟨rfl, hmax, rfl⟩ | ⟨rfl, hmax, rfl⟩ | ⟨rfl, hmax, rfl⟩
    · exact ⟨.currentChannel, rfl, Pib.accepts_currentChannel.mpr ⟨hmax, hbit⟩, rfl⟩
    · exact ⟨.channelsSupported, rfl, Pib.accepts_channelsSupported.mpr hmax, rfl⟩
    · exact ⟨.transmitPower, rfl, Pib.accepts_transmitPower.mpr hmax, rfl⟩
    · exact ⟨.ccaMode, rfl, Pib.accepts_ccaMode.mpr hmax, rfl⟩
  have hstored := ((State.Reaches.refl s).noteRequest .set).setPib (s.pib.store a value)
  rw [exec_setReq_known hslot hattr, if_pos haccepts]
  refine ⟨fun hsilent => ?_, fun reply rest hdriver hreplies => ?_⟩
  · exact (hstored.callAndFinish (a := .setRequest attr value) (.of_quiet_or_null hsilent)).shows
  · have hreach := hstored.duringCall (a := .setRequest attr value) hdriver hreplies
    exact ⟨_, hreach.registers, hreach.env, hreach.build, hreach.events,
      hstored.callAndFinish_reply hdriver hreplies⟩

/-- Settles O29: in both clauses the one Call is the immediate confirm, from the unwritten registers. -/
theorem setRequestRejectsOutOfRange : Obligations.SetRequestRejectsOutOfRange := by
  intro attr value s hquiet hslot
  have hconfirm (status : Status) :=
    (((State.Reaches.refl s).noteRequest .set).callAndFinish
      (.of_quiet (.setConfirm status attr) hquiet)).shows
  refine ⟨fun hattr => ?_, fun hvalue => ?_⟩
  · rw [exec_setReq_unknown hslot (PibAttr.ofByte_eq_none_iff.mpr hattr)]
    exact hconfirm Status.unsupportedAttribute
  · obtain ⟨a, hattr, hrejects⟩ : ∃ a, PibAttr.ofByte attr = some a ∧ ¬ s.pib.accepts a value = true := by
      rcases hvalue with ⟨rfl, hchannel⟩ | ⟨rfl, hbitmap⟩ | ⟨rfl | rfl, hmode⟩
      · refine ⟨.currentChannel, rfl, fun haccepts => ?_⟩
        obtain ⟨hmax, hbit⟩ := Pib.accepts_currentChannel.mp haccepts
        rcases hchannel with hlarge | hclear
        · exact absurd hmax (Nat.not_le.mpr hlarge)
        · exact Bool.false_ne_true (hclear.symm.trans hbit)
      · exact ⟨.channelsSupported, rfl, mt Pib.accepts_channelsSupported.mp (Nat.not_lt.mpr hbitmap)⟩
      · exact ⟨.transmitPower, rfl, mt Pib.accepts_transmitPower.mp (Nat.not_le.mpr hmode)⟩
      · exact ⟨.ccaMode, rfl, mt Pib.accepts_ccaMode.mp (Nat.not_le.mpr hmode)⟩
    rw [exec_setReq_known hslot hattr, if_neg hrejects]
    exact hconfirm Status.invalidParameter

end Machine
end Sys2Proof
end

section
/-!
PROOFS. The direct commands of the pending transaction queue (44_ptq.md): what PTQ.ADD and PTQ.REMOVE answer
in each case of the queue.
-/

namespace Sys2Proof
namespace Machine

/-! ## PTQ.ADD (R221; D34) -/

section Add

variable {handle : Byte} {kind : TxKind} {ack : Bool} {s : State}

/-- The time is sampled even though no entry is written. -/
theorem exec_ptqAdd_full (h : s.ptq.length = 10) :
    exec (.ptqAdd handle kind ack) s = .next (s.sampleTime.2.complete .droppedFull) := by
  simp only [exec, execPtqAdd, ptqAddOp_eq, if_pos (show _ = Config.ptqSlots from h)]

theorem exec_ptqAdd_stored (h : s.ptq.length ≠ 10) :
    exec (.ptqAdd handle kind ack) s =
      .next ((s.sampleTime.2.setPtq (s.ptq ++ [⟨handle, kind, ack, s.sampleTime.1⟩])).complete .stored) := by
  simp only [exec, execPtqAdd, ptqAddOp_eq, if_neg (show _ ≠ Config.ptqSlots from h)]

end Add

/-- Settles O30: both cases take the sample and complete, and the queue is written only where there is room. -/
theorem addAppendsUnlessFull : Obligations.AddAppendsUnlessFull := by
  intro handle kind ack s
  have hsampled := (State.Reaches.refl s).sampleTime
  by_cases hfull : s.ptq.length = 10
  · have hreach := hsampled.complete .droppedFull
    refine ⟨_, s.sampleTime.1, exec_ptqAdd_full hfull, fun _ _ => State.sampleTime_of_listed, ?_,
      s.sampleTime_inbox, s.sampleTime_replies, hreach.build, s.sampleTime_ghost,
      fun _ => ⟨hreach.ptq, hreach.events⟩, absurd hfull⟩
    rw [hreach.ptq]
    exact hreach.registers
  · have hreach := (hsampled.setPtq (s.ptq ++ [⟨handle, kind, ack, s.sampleTime.1⟩])).complete .stored
    exact ⟨_, s.sampleTime.1, exec_ptqAdd_stored hfull, fun _ _ => State.sampleTime_of_listed,
      hreach.registers, s.sampleTime_inbox, s.sampleTime_replies, hreach.build, s.sampleTime_ghost,
      fun h => absurd h hfull, fun _ => ⟨rfl, hreach.events⟩⟩

/-! ## PTQ.REMOVE (R223; D34) -/

theorem exec_ptqRemove_found {handle : Byte} {s : State} {queue : List PtqEntry}
    (h : removeFirst handle s.ptq = some queue) :
    exec (.ptqRemove handle) s = .next ((s.setPtq queue).complete .found) := by
  simp only [exec, execPtqRemove, ptqRemoveOp, h]

theorem exec_ptqRemove_notFound {handle : Byte} {s : State} (h : removeFirst handle s.ptq = none) :
    exec (.ptqRemove handle) s = .next (s.complete .notFound) := by
  simp only [exec, execPtqRemove, ptqRemoveOp, h]

/-- Settles O31: the scan's two answers are `removeFirst_eq_some` and `removeFirst_eq_none`. -/
theorem removeTakesFirstMatch : Obligations.RemoveTakesFirstMatch := by
  intro handle s
  constructor
  · intro before e later hqueue hbefore he
    exact exec_ptqRemove_found (removeFirst_eq_some.mpr ⟨before, e, later, hqueue, hbefore, he, rfl⟩)
  · intro habsent
    exact exec_ptqRemove_notFound (removeFirst_eq_none.mpr habsent)

end Machine
end Sys2Proof
end

section
/-!
PROOFS. Every command completes (00_scope.md R13; 60_exceptions.md R235). The progress half of the packaged
induction of `exec_keeps`: where the handlers return and issue presentable commands, no part of a command
gets stuck, and a whole command ends in a completion.
-/

namespace Sys2Proof
namespace Machine

/-! ## Progress of a part of a command and of a whole one -/

/-- From every state with the property, a part of a command answers a next state with it. -/
def Proceeds (P : State → Prop) (f : State → Result) : Prop :=
  ∀ s, P s → ∃ t, f s = .next t ∧ P t

/-- From every state with the property, a command comes to a state with it and there completes. -/
def Completes (P : State → Prop) (f : State → Result) : Prop :=
  ∀ s, P s → ∃ t c, f s = .next (t.complete c) ∧ P t

section rules
variable {P : State → Prop}

theorem Completes.finish : Completes P finish := fun s hs => ⟨s, .none, rfl, hs⟩

theorem Proceeds.andThen {f k : State → Result} (hf : Proceeds P f) (hk : Proceeds P k) :
    Proceeds P fun s => (f s).andThen k := by
  intro s hs
  obtain ⟨m, hm, hPm⟩ := hf s hs
  simpa only [hm, andThen_next] using hk m hPm

theorem Proceeds.andThen_completes {f k : State → Result} (hf : Proceeds P f) (hk : Completes P k) :
    Completes P fun s => (f s).andThen k := by
  intro s hs
  obtain ⟨m, hm, hPm⟩ := hf s hs
  simpa only [hm, andThen_next] using hk m hPm

/-- A NULL inbound slot completes the command, too (R153). -/
theorem Completes.gated {i : Inst} {v : Svc} {r : Role} {b : State → Result} (hb : Completes P b) :
    Completes P (gated i v r b) := by
  intro s hs
  by_cases h : s.slot i v r = 0#32
  · exact ⟨s, .none, gated_null h, hs⟩
  · rw [gated_bound h]
    exact hb s hs

theorem Proceeds.callIfPresent {f : Invoke} (hf : ∀ c, Proceeds P (f c)) (a : OutArgs) :
    Proceeds P (callIfPresent f a) := by
  intro s hs
  by_cases h : s.slot a.inst a.svc a.role = 0#32
  · exact ⟨s, callIfPresent_null h, hs⟩
  · rw [callIfPresent_bound h]
    exact hf _ s hs

theorem Completes.callAndFinish {f : Invoke} (hf : ∀ c, Proceeds P (f c)) (a : OutArgs) :
    Completes P (callAndFinish f a) :=
  (Proceeds.callIfPresent hf a).andThen_completes .finish

variable (hP : Closed (fun _ => false) P)
include hP

theorem Completes.of_proceeds {f : State → Result} (hf : Completes P f) : Proceeds P f := by
  intro s hs
  obtain ⟨t, c, ht, hPt⟩ := hf s hs
  exact ⟨_, ht, hP.complete t c hPt⟩

theorem Completes.whileConfirming {v : Svc} {b : State → Result} (hb : Proceeds P b) :
    Completes P (whileConfirming v b) := by
  intro s hs
  obtain ⟨m, hm, hPm⟩ := hb _ (hP.beginConfirm s v hs)
  refine ⟨_, .none, ?_, hP.endConfirm m v (s.ghost.confirming.bit v) hPm⟩
  simp only [Machine.whileConfirming, hm, andThen_next, finish_eq]

variable {f : Invoke} (hf : ∀ c, Proceeds P (f c))
include hf

theorem Completes.confirmAndFinish (a : OutArgs) : Completes P (confirmAndFinish f a) :=
  .whileConfirming hP (.callIfPresent hf a)

theorem Proceeds.setTrxBody (v : Status) : Proceeds P (setTrxBody f v) := by
  intro s hs
  simp only [Machine.setTrxBody]
  split <;> exact Proceeds.callIfPresent hf _ _ (hP.noteRequest s .setTrx hs)

/-- DATA.req completes whether or not the driver has confirmed `TX_ON` (R178, R179). -/
theorem Completes.dataAfterSetTrx (r : EncodeRequest) : Completes P (dataAfterSetTrx f r) := by
  intro s hs
  unfold Machine.dataAfterSetTrx
  split
  · simp only [dataForward, encodeOp]
    refine Completes.callAndFinish hf _ _ ?_
    exact hP.status (.inl rfl) _ _ (hP.ptqAddOp (.inr rfl) _ _ _ _
      (hP.handle rfl _ _ (hP.dsn (.inr rfl) _ hs)))
  · exact Completes.finish s hs

/-- A command whose handlers proceed completes. -/
theorem Completes.runInstr (i : Instr) : Completes P (runInstr f i) := by
  cases i with
  | dataReq r =>
    refine .gated fun s hs => ?_
    have hs' := hP.noteRequest _ .setTrx (hP.noteRequest s .data hs)
    split
    · exact Completes.callAndFinish hf _ _ (hP.status (.inl rfl) _ _ hs')
    · split
      · exact Completes.callAndFinish hf _ _ (hP.status (.inl rfl) _ _ hs')
      · exact (Proceeds.setTrxBody hP hf _).andThen_completes (.dataAfterSetTrx hP hf r) _ hs'
  | ccaReq | edReq | getReq attr =>
    refine .gated fun s hs => ?_
    split <;> exact Completes.callAndFinish hf _ _ (hP.noteRequest s _ hs)
  | setTrxReq target => exact .gated ((Proceeds.setTrxBody hP hf target).andThen_completes .finish)
  | setReq attr value =>
    refine .gated fun s hs => ?_
    have hs' := hP.noteRequest s .set hs
    split
    · exact Completes.callAndFinish hf _ _ hs'
    · split
      next haccepts => exact Completes.callAndFinish hf _ _ (hP.pib rfl _ _ _ haccepts hs')
      next => exact Completes.callAndFinish hf _ _ hs'
  | dataCnf status =>
    refine .gated (.whileConfirming hP ((Proceeds.setTrxBody hP hf _).andThen fun s hs => ?_))
    exact Proceeds.callIfPresent hf _ _ (hP.status (.inr rfl) _ _ (hP.ptqRemoveOp (.inr rfl) _ _ hs))
  | dataInd rxbuf declaredLength =>
    refine .gated fun s hs => ?_
    split
    · exact ⟨s, _, rfl, hs⟩
    · exact (Proceeds.callIfPresent hf _).andThen_completes (fun t ht => ⟨t, .ok, rfl, ht⟩) s hs
  | setTrxCnf status =>
    exact .gated fun s hs => Completes.confirmAndFinish hP hf _ _ (hP.track rfl s status hs)
  | ccaCnf | edCnf | getCnf | setCnf => exact .gated (.confirmAndFinish hP hf _)
  | bindU | bindL => exact fun s hs => ⟨_, .none, rfl, hP.bind _ _ _ rfl s _ hs⟩
  | decodeFrame => exact fun s hs => ⟨s, _, rfl, hs⟩
  | encodeFrame => exact fun s hs => ⟨_, _, rfl, hP.dsn (.inl rfl) s hs⟩
  | ptqAdd => exact fun s hs => ⟨_, _, rfl, hP.ptqAddOp (.inl rfl) _ _ _ s hs⟩
  | ptqRemove => exact fun s hs => ⟨_, _, rfl, hP.ptqRemoveOp (.inl rfl) _ s hs⟩

end rules

/-! ## The commands of handlers -/

/-- A presentable octet string completes: as its command does, or with CmdIllegal (R156). -/
theorem Completes.runOctets {P : State → Prop} {run : Instr → State → Result}
    (hrun : ∀ i, Completes P (run i)) {octets : Octets} (h : presentable octets) :
    Completes P (runOctets run octets) := by
  intro s hs
  obtain ⟨i, rest, hdecode⟩ | ⟨cmd, hdecode⟩ := h
  · rw [runOctets_ok hdecode]
    exact hrun i s hs
  · exact ⟨s, .cmdIllegal, runOctets_illegal hdecode s, hs⟩

theorem Proceeds.runAll {P : State → Prop} (hP : Closed (fun _ => false) P)
    {run : Instr → State → Result} (hrun : ∀ i, Completes P (run i)) (cs : List Octets)
    (hcs : ∀ c ∈ cs, presentable c) : Proceeds P (runAll run cs) := by
  induction cs with
  | nil => exact fun s hs => ⟨s, rfl, hs⟩
  | cons c cs ih =>
    obtain ⟨hc, hcs⟩ := List.forall_mem_cons.mp hcs
    exact (Completes.of_proceeds hP (.runOctets hrun hc)).andThen (ih hcs)

/-- The handlers still to come go on being well-behaved: commands only take replies off the list. -/
theorem Closed.withWellBehaved {kind : Opcode → Bool} {P : State → Prop} (hP : Closed kind P) :
    Closed kind (fun s => P s ∧ s.env.wellBehaved) where
  log s e h := ⟨hP.log s e h.1, h.2⟩
  ghost s g hg h := ⟨hP.ghost s g hg h.1, h.2⟩
  reply s h := ⟨hP.reply s h.1, fun reply hr => h.2 reply (List.mem_of_mem_tail hr)⟩
  sample s h := ⟨hP.sample s h.1, fun reply hr => h.2 reply (s.sampleTime_replies ▸ hr)⟩
  trx hk s v h := ⟨hP.trx hk s v h.1, h.2⟩
  dsn hk s h := ⟨hP.dsn hk s h.1, h.2⟩
  status hk s v h := ⟨hP.status hk s v h.1, h.2⟩
  handle hk s v h := ⟨hP.handle hk s v h.1, h.2⟩
  bind i v r hk s b h := ⟨hP.bind i v r hk s b h.1, by cases i <;> exact h.2⟩
  pib hk s a v ha h := ⟨hP.pib hk s a v ha h.1, h.2⟩
  add hk s e hl h := ⟨hP.add hk s e hl h.1, h.2⟩
  remove hk s b q hr h := ⟨hP.remove hk s b q hr h.1, h.2⟩

section handlers
variable {P : State → Prop} (hP : Closed (fun _ => false) P)
include hP

/-- A well-behaved handler returns, whatever commands it issues, and those their handlers in turn. -/
theorem Proceeds.runHandler (depth : Nat) (c : OutCall) :
    Proceeds (fun s => P s ∧ s.env.wellBehaved) (runHandler depth c) := by
  have hQ := hP.withWellBehaved
  induction depth generalizing c with
  | zero => exact fun s hs => ⟨_, rfl, hQ.emit s c hs⟩
  | succ depth ih =>
    intro s hs
    cases hr : s.env.replies with
    | nil => exact ⟨_, by simp only [Machine.runHandler, hr], hQ.emit s c hs⟩
    | cons reply rest =>
      obtain ⟨hreturns, hcommands⟩ := hs.2 reply (hr ▸ List.mem_cons_self)
      obtain ⟨t, ht, hPt⟩ := Proceeds.runAll hQ (Completes.runInstr hQ ih) reply.commands hcommands _
        (hQ.reply _ (hQ.emit s c hs))
      exact ⟨t, by simp only [Machine.runHandler, hr, ht, andThen_next, handlerReturns, hreturns,
        if_true], hPt⟩

/-- The progress half of `exec_keeps`. -/
theorem Completes.exec (i : Instr) : Completes (fun s => P s ∧ s.env.wellBehaved) (exec i) := by
  rw [show Machine.exec i = Machine.runInstr invokeHandler i from funext (exec_eq_runInstr i)]
  exact .runInstr hP.withWellBehaved (fun c s hs => Proceeds.runHandler hP _ c s hs) i

end handlers

/-- Settles O45: the command completes (`Completes.exec`) in a state to which events have only been added
(`KeepsSurroundings`). -/
theorem everyCommandCompletes : Obligations.EveryCommandCompletes := by
  intro i s hwellBehaved
  obtain ⟨t, c, hrun, hsurroundings, -⟩ :=
    Completes.exec (KeepsSurroundings.closed s) i s ⟨.refl s, hwellBehaved⟩
  obtain ⟨between, hbetween⟩ := hsurroundings.events
  exact ⟨t.complete c, between, c, hrun, by rw [State.complete_events, hbetween]⟩

end Machine
end Sys2Proof
end

section
/-!
PROOFS. Waiting, the reset input (70_reset_and_hazards.md R260, R261) and the in-flight rule (R271): which
requests a command leaves in flight, and when it sets the mark of a double issue.
-/

namespace Sys2Proof
namespace Machine

/-! ## Waiting (R261) -/

/-- Settles O7: the empty inbox is the first case of `step`. -/
theorem waitsWhenNothingPresented : Obligations.WaitsWhenNothingPresented := by
  intro s hinbox
  simp only [step, hinbox]

/-! ## The reset input (R260, R47) -/

theorem step_reset {s : State} {more : List Input} (h : s.env.inbox = .reset :: more) :
    step s = .next s.dropInput.applyReset := by
  simp only [step, h]

theorem Registry.slot_null (svc : Svc) (role : Role) : (Registry.null.triple svc).slot role = 0#32 := by
  cases svc <;> cases role <;> rfl

theorem State.slot_reset (inst : Inst) (svc : Svc) (role : Role) : State.reset.slot inst svc role = 0#32 := by
  cases inst <;> exact Registry.slot_null svc role

/-- Settles O8: the reset input is taken, and `applyReset` writes every register. -/
theorem resetInputRestoresRegisters : Obligations.ResetInputRestoresRegisters := by
  refine ⟨rfl, State.slot_reset, fun s more hinbox => ?_⟩
  rw [step_reset hinbox, State.dropInput_eq hinbox]
  exact ⟨_, rfl, rfl, rfl, rfl, rfl, rfl⟩

/-! ## What a command leaves in flight and marks (R271) -/

/-- From `s` to `t` the events `more` are added and the in-flight rule is followed: the Confirm of the
service `confirmed`, if there is one, has been processed, and the services `requests` have been tested. -/
structure State.Marks (s t : State) (confirmed : Option Svc) (more : List Event) (requests : List Svc) :
    Prop where
  events : t.events = s.events ++ more
  confirming : t.ghost.confirming = s.ghost.confirming
  inFlight : ∀ svc, t.ghost.inFlight.bit svc =
    ((s.ghost.inFlight.bit svc && !decide (confirmed = some svc)) || more.any (Event.forwards svc))
  mark : t.ghost.doubleIssue = (s.ghost.doubleIssue || requests.any s.ghost.outstanding)

/-- A part of a command ends in a state up to which the in-flight rule has been followed. -/
def State.EndsMarked (s : State) (result : Result) (confirmed : Option Svc) (requests : List Svc) : Prop :=
  ∃ t more, result = .next t ∧ s.Marks t confirmed more requests

theorem State.EndsMarked.gated {s : State} {inst : Inst} {svc : Svc} {role : Role} {body : State → Result}
    {confirmed : Option Svc} {requests : List Svc} (hslot : s.slot inst svc role ≠ 0#32)
    (h : s.EndsMarked (body s) confirmed requests) :
    s.EndsMarked (gated inst svc role body s) confirmed requests := by
  rwa [gated_bound hslot]

/-- What holds of a member of a list adds nothing to what holds of some member. -/
theorem any_or_of_mem {α : Type} {a : α} {l : List α} (h : a ∈ l) (p : α → Bool) :
    (l.any p || p a) = l.any p := by
  cases hp : p a with
  | false => rw [Bool.or_false]
  | true => rw [Bool.or_true, List.any_eq_true.mpr ⟨a, h, hp⟩]

/-- While a Confirm is processed the request it answers is still in flight. -/
theorem State.beginConfirm_outstanding (s : State) (v svc : Svc) :
    (s.beginConfirm v).ghost.outstanding svc = s.ghost.outstanding svc := by
  by_cases h : svc = v
  · subst h
    simp [Ghost.outstanding, InFlight.bit_setBit]
  · simp [Ghost.outstanding, InFlight.bit_setBit, h]

/-- No Request goes out through the slot of a Confirm or an Indication. -/
theorem outEvents_not_forwards {a : OutArgs} (h : a.role ≠ .request) (s : State) (svc : Svc) :
    (outEvents s a).any (Event.forwards svc) = false := by
  unfold outEvents
  split
  · rfl
  · simp [Event.forwards, h]

namespace State.Marks

theorem refl (s : State) : s.Marks s none [] [] := ⟨by simp, rfl, by simp, by simp⟩

/-- The rule is about events and ghost bits only. -/
theorem of_same_start {s s' t : State} {confirmed : Option Svc} {more : List Event} {requests : List Svc}
    (h : s'.Marks t confirmed more requests) (hevents : s'.events = s.events) (hghost : s'.ghost = s.ghost) :
    s.Marks t confirmed more requests :=
  ⟨hevents ▸ h.events, hghost ▸ h.confirming, hghost ▸ h.inFlight, hghost ▸ h.mark⟩

variable {s t : State} {confirmed : Option Svc} {more : List Event} {requests : List Svc}

section
variable (h : s.Marks t confirmed more requests)
include h

theorem of_same {u : State} (hevents : u.events = t.events) (hghost : u.ghost = t.ghost) :
    s.Marks u confirmed more requests :=
  ⟨hevents.trans h.events, hghost ▸ h.confirming, hghost ▸ h.inFlight, hghost ▸ h.mark⟩

theorem complete (c : Completion) : s.Marks (t.complete c) confirmed (more ++ [.completed c]) requests where
  events := by rw [State.complete_events, h.events, List.append_assoc]
  confirming := h.confirming
  inFlight svc := by simp [h.inFlight svc, Event.forwards]
  mark := h.mark

theorem ends : s.EndsMarked (.next t) confirmed requests := ⟨t, more, rfl, h⟩

theorem finish : s.EndsMarked (finish t) confirmed requests := (h.complete .none).ends

/-- A Call that is not of a Request leaves the ghost bits. -/
theorem afterCall_other {a : OutArgs} (ha : a.role ≠ .request) :
    s.Marks (afterCall a t) confirmed (more ++ outEvents t a) requests where
  events := by rw [afterCall_events, h.events, List.append_assoc]
  confirming := (afterCall_confirming a t).trans h.confirming
  inFlight svc := by rw [afterCall_ghost ha, h.inFlight, List.any_append, outEvents_not_forwards ha,
    Bool.or_false]
  mark := by rw [afterCall_ghost ha, h.mark]

end

/-- As long as nothing is forwarded and no Confirm processed, the same requests are in flight. -/
theorem outstanding (h : s.Marks t none [] requests) (svc : Svc) :
    t.ghost.outstanding svc = s.ghost.outstanding svc := by
  simp [Ghost.outstanding, h.inFlight, h.confirming]

/-- One more request is tested. -/
theorem noteRequest (h : s.Marks t none [] requests) (svc : Svc) :
    s.Marks (t.noteRequest svc) none [] (requests ++ [svc]) where
  events := h.events
  confirming := h.confirming
  inFlight := h.inFlight
  mark := by simp [h.mark, h.outstanding, Bool.or_assoc]

/-- A request tested before is tested again, which changes nothing. -/
theorem noteRequest_again (h : s.Marks t none [] requests) {svc : Svc} (hsvc : svc ∈ requests) :
    s.Marks (t.noteRequest svc) none [] requests where
  events := h.events
  confirming := h.confirming
  inFlight := h.inFlight
  mark := by simp only [State.noteRequest_ghost, h.mark, h.outstanding, Bool.or_assoc, any_or_of_mem hsvc]

/-- The first Call after the tests: a Request that it forwards has been tested. -/
theorem afterCall_first (h : s.Marks t none [] requests) {a : OutArgs}
    (ha : a.role = .request → a.svc ∈ requests) :
    s.Marks (afterCall a t) none (outEvents t a) requests where
  events := by rw [afterCall_events, h.events, List.append_nil]
  confirming := (afterCall_confirming a t).trans h.confirming
  inFlight svc := by simp [afterCall_inFlight_bit, h.inFlight]
  mark := by
    by_cases hrole : a.role = .request
    · rw [afterCall_doubleIssue, h.mark, h.outstanding, Bool.or_assoc]
      cases decide (t.slot a.inst a.svc a.role ≠ 0#32 ∧ a.role = .request) with
      | false => rw [Bool.false_and, Bool.or_false]
      | true => rw [Bool.true_and, any_or_of_mem (ha hrole)]
    · rw [afterCall_ghost hrole, h.mark]

/-- The Confirm of a service has been processed, with whatever was forwarded meanwhile. -/
theorem endConfirm {v : Svc} (h : (s.beginConfirm v).Marks t none more requests) :
    s.Marks (t.endConfirm v (s.ghost.confirming.bit v)) (some v) more requests where
  events := h.events
  confirming := by simp [h.confirming]
  inFlight svc := by
    rw [State.endConfirm_ghost, h.inFlight, State.beginConfirm_ghost, InFlight.bit_setBit]
    by_cases hsvc : svc = v
    · simp [hsvc]
    · simp [hsvc, Ne.symm hsvc]
  mark := by
    rw [State.endConfirm_ghost, h.mark]
    simp only [funext (s.beginConfirm_outstanding v)]
    rfl

/-! ### The shapes of a quiet command -/

/-- Its requests tested, a command makes one Call and completes. -/
theorem callAndFinish (h : s.Marks t none [] requests) (hquiet : t.quiet) {a : OutArgs}
    (ha : a.role = .request → a.svc ∈ requests) :
    s.EndsMarked (callAndFinish invokeHandler a t) none requests := by
  rw [callAndFinish_quiet hquiet]
  exact ((h.afterCall_first ha).complete .none).ends

end State.Marks

theorem setTrxCall_svc (target : Status) : (setTrxCall target).svc = .setTrx := by
  unfold setTrxCall
  split <;> rfl

/-- The internal SETTRX request, tested before or with the request that makes it. -/
theorem State.Marks.setTrxBody {s t : State} {requests : List Svc}
    (h : s.Marks (t.noteRequest .setTrx) none [] requests) (hsvc : .setTrx ∈ requests) (hquiet : t.quiet)
    (target : Status) :
    ∃ u, setTrxBody invokeHandler target t = .next u ∧ u.quiet ∧ u.registers = t.registers ∧
      s.Marks u none (outEvents t (setTrxCall target)) requests := by
  have hquiet' : (t.noteRequest .setTrx).quiet := hquiet
  rw [setTrxBody_eq, callIfPresent_quiet hquiet']
  have hreach := ((State.Reaches.refl t).noteRequest .setTrx).afterCall (setTrxCall target)
  exact ⟨_, rfl, hreach.replies.trans hquiet, hreach.registers,
    h.afterCall_first fun _ => (setTrxCall_svc target).symm ▸ hsvc⟩

/-- A Confirm that is passed on, from a state that differs in registers only. -/
theorem confirmAndFinish_marks {s t : State} {a : OutArgs} (ha : a.role ≠ .request) (hquiet : t.quiet)
    (hevents : t.events = s.events) (hghost : t.ghost = s.ghost) :
    s.EndsMarked (confirmAndFinish invokeHandler a t) (some a.svc) [] := by
  have hcall := (State.Marks.refl (t.beginConfirm a.svc)).afterCall_other ha
  rw [confirmAndFinish_quiet hquiet]
  exact ((hcall.endConfirm.complete .none).of_same_start hevents hghost).ends

theorem ptqRemoveOp_ghost (handle : Byte) (s : State) : (ptqRemoveOp handle s).2.ghost = s.ghost := by
  obtain ⟨hop, -⟩ | ⟨queue, hop, -⟩ := ptqRemoveOp_eq handle s
  · rw [hop]
  · rw [hop, State.setPtq_ghost]

theorem ptqAddOp_ghost (handle : Byte) (kind : TxKind) (ack : Bool) (s : State) :
    (ptqAddOp handle kind ack s).2.ghost = s.ghost := by
  rw [ptqAddOp_eq]
  split <;> exact s.sampleTime_ghost

theorem ptqAddOp_events (handle : Byte) (kind : TxKind) (ack : Bool) (s : State) :
    (ptqAddOp handle kind ack s).2.events = s.events := by
  rw [ptqAddOp_eq]
  split <;> exact s.sampleTime_events

/-! ### The Confirm a command processes -/

/-- The service whose Confirm a command processes. -/
def confirmOf (i : Instr) : Option Svc :=
  match inboundSlot i with
  | some (.lower, svc, .confirm) => some svc
  | _ => none

theorem confirmOf_eq_some_iff {i : Instr} {svc : Svc} :
    confirmOf i = some svc ↔ i.opcode = Opcode.ofConfirm svc := by
  cases i <;> cases svc <;> simp [confirmOf, inboundSlot, Instr.opcode, Opcode.ofConfirm]

theorem inboundSlot_of_confirmOf {i : Instr} {svc : Svc} (h : confirmOf i = some svc) :
    inboundSlot i = some (.lower, svc, .confirm) := by
  unfold confirmOf at h
  split at h
  · rename_i hslot
    cases h
    exact hslot
  · cases h

/-! ### Each command -/

/-- A closed gate follows the rule, too: nothing is forwarded and no Confirm processed (R153). -/
theorem exec_closed_marks {s : State} {i : Instr} {inst : Inst} {svc : Svc} {role : Role}
    (hslot : inboundSlot i = some (inst, svc, role)) (hnull : s.slot inst svc role = 0#32) :
    s.EndsMarked (exec i s) none [] := by
  obtain ⟨body, hbody⟩ := exec_eq_gated hslot
  rw [hbody, gated_null hnull]
  exact ((State.Marks.refl s).complete .none).ends

theorem dataCnfAfterSetTrx_quiet (status : Status) {u : State} (h : u.quiet) :
    dataCnfAfterSetTrx invokeHandler status u =
      .next (afterCall (.dataConfirm status) ((ptqRemoveOp u.txHandle u).2.setDataStatus status)) :=
  callIfPresent_quiet (((State.Reaches.refl u).ptqRemove u.txHandle).replies.trans h)

section
variable {s : State} (hquiet : s.quiet)
include hquiet

theorem exec_dataReq_marks {q : EncodeRequest} (hslot : s.slot .upper .data .request ≠ 0#32) :
    s.EndsMarked (exec (.dataReq q) s) none [.data, .setTrx] := by
  have hnoted : s.Marks ((s.noteRequest .data).noteRequest .setTrx) none [] [.data, .setTrx] :=
    ((State.Marks.refl s).noteRequest .data).noteRequest .setTrx
  have hrefuse (status : Status) : s.EndsMarked
      (dataRefuse invokeHandler status ((s.noteRequest .data).noteRequest .setTrx)) none [.data, .setTrx] :=
    State.Marks.callAndFinish (t := ((s.noteRequest .data).noteRequest .setTrx).setDataStatus status)
      (a := .dataConfirm status) (hnoted.of_same rfl rfl) hquiet nofun
  rw [exec_dataReq hslot]
  split_ifs with hoff hlength
  · exact hrefuse _
  · exact hrefuse _
  · have hsvc : Svc.setTrx ∈ [Svc.data, Svc.setTrx] := by decide
    obtain ⟨u, hu, -, hregisters, hmarks⟩ :=
      (hnoted.noteRequest_again hsvc).setTrxBody hsvc hquiet Status.txOn
    have hstate : u.trxState = s.trxState := congrArg Registers.trxState hregisters
    rw [hu, andThen_next, dataAfterSetTrx_vanishes (by rw [hstate, not_not.mp hoff]; decide)]
    exact hmarks.finish

theorem exec_dataCnf_marks {status : Status} (hslot : s.slot .lower .data .confirm ≠ 0#32) :
    s.EndsMarked (exec (.dataCnf status) s) (some .data) [.setTrx] := by
  have hnoted := (State.Marks.refl (s.beginConfirm .data)).noteRequest .setTrx
  obtain ⟨u, hu, huquiet, -, hmarks⟩ := hnoted.setTrxBody (by decide) hquiet Status.rxOn
  have hresolved : (s.beginConfirm .data).Marks ((ptqRemoveOp u.txHandle u).2.setDataStatus status) none
      (outEvents (s.beginConfirm .data) (setTrxCall Status.rxOn)) [.setTrx] :=
    hmarks.of_same ((State.Reaches.refl u).ptqRemove u.txHandle).events (ptqRemoveOp_ghost u.txHandle u)
  have hwork := hresolved.afterCall_other (a := .dataConfirm status) nofun
  rw [exec_dataCnf hslot, whileConfirming, dataCnfWork, hu, andThen_next,
    dataCnfAfterSetTrx_quiet status huquiet, andThen_next]
  exact hwork.endConfirm.finish

/-- A request that `RX_ON` lets through is tested in every state. -/
theorem forwardedInRxOn_marks {svc : Svc} {confirm request : OutArgs} (hconfirm : confirm.role ≠ .request)
    (hrequest : request.svc = svc) :
    s.EndsMarked (if s.trxState ≠ .rxOn then callAndFinish invokeHandler confirm (s.noteRequest svc)
      else callAndFinish invokeHandler request (s.noteRequest svc)) none [svc] := by
  have hnoted : s.Marks (s.noteRequest svc) none [] [svc] := (State.Marks.refl s).noteRequest svc
  split
  · exact hnoted.callAndFinish hquiet fun h => absurd h hconfirm
  · exact hnoted.callAndFinish hquiet fun _ => List.mem_singleton.mpr hrequest

theorem exec_getReq_marks {attr : Byte} (hslot : s.slot .upper .get .request ≠ 0#32) :
    s.EndsMarked (exec (.getReq attr) s) none [.get] := by
  rw [exec_getReq hslot]
  refine ((State.Marks.refl s).noteRequest .get).callAndFinish hquiet fun _ => ?_
  unfold getReqCall
  split <;> exact List.mem_singleton.mpr rfl

theorem exec_setTrxReq_marks {target : Status} (hslot : s.slot .upper .setTrx .request ≠ 0#32) :
    s.EndsMarked (exec (.setTrxReq target) s) none [.setTrx] := by
  obtain ⟨u, hu, -, -, hmarks⟩ :=
    ((State.Marks.refl s).noteRequest .setTrx).setTrxBody (by decide) hquiet target
  rw [exec_setTrxReq hslot, hu]
  exact hmarks.finish

theorem exec_setReq_marks {attr : Byte} {value : BitVec 32} (hslot : s.slot .upper .set .request ≠ 0#32) :
    s.EndsMarked (exec (.setReq attr value) s) none [.set] := by
  have hnoted : s.Marks (s.noteRequest .set) none [] [.set] := (State.Marks.refl s).noteRequest .set
  cases hattr : PibAttr.ofByte attr with
  | none =>
    rw [exec_setReq_unknown hslot hattr]
    exact hnoted.callAndFinish hquiet nofun
  | some a =>
    rw [exec_setReq_known hslot hattr]
    split
    · exact (hnoted.of_same (u := (s.noteRequest .set).setPib (s.pib.store a value)) rfl rfl).callAndFinish
        hquiet fun _ => List.mem_singleton.mpr rfl
    · exact hnoted.callAndFinish hquiet nofun

theorem exec_dataInd_marks {rxbuf : Octets} {declaredLength : Byte}
    (hslot : s.slot .lower .data .indication ≠ 0#32) :
    s.EndsMarked (exec (.dataInd rxbuf declaredLength) s) none [] := by
  cases hdecode : decodeMpdu s.build.variant rxbuf declaredLength with
  | error e =>
    rw [exec_dataInd_error hslot hdecode]
    exact ((State.Marks.refl s).complete _).ends
  | ok f =>
    rw [exec_dataInd_ok hslot hdecode hquiet]
    exact (((State.Marks.refl s).afterCall_other (a := .dataIndication f.indication) nofun).complete .ok).ends

/-- The in-flight rule for every command whose inbound slot, if it has one, is bound. -/
theorem exec_marks {i : Instr}
    (hopen : ∀ inst svc role, inboundSlot i = some (inst, svc, role) → s.slot inst svc role ≠ 0#32) :
    s.EndsMarked (exec i s) (confirmOf i) (requestsOf i) := by
  have hrefl := State.Marks.refl s
  cases i with
  | dataReq => exact exec_dataReq_marks hquiet (hopen _ _ _ rfl)
  | ccaReq =>
    rw [exec_ccaReq (hopen _ _ _ rfl)]
    exact forwardedInRxOn_marks hquiet nofun rfl
  | edReq =>
    rw [exec_edReq (hopen _ _ _ rfl)]
    exact forwardedInRxOn_marks hquiet nofun rfl
  | getReq => exact exec_getReq_marks hquiet (hopen _ _ _ rfl)
  | setTrxReq => exact exec_setTrxReq_marks hquiet (hopen _ _ _ rfl)
  | setReq => exact exec_setReq_marks hquiet (hopen _ _ _ rfl)
  | dataCnf => exact exec_dataCnf_marks hquiet (hopen _ _ _ rfl)
  | dataInd => exact exec_dataInd_marks hquiet (hopen _ _ _ rfl)
  | setTrxCnf status =>
    rw [exec_setTrxCnf (hopen _ _ _ rfl)]
    exact confirmAndFinish_marks (a := .setTrxConfirm status) nofun
      (((State.Reaches.refl s).trackStatus status).replies.trans hquiet)
      (s.trackStatus_events status) (s.trackStatus_ghost status)
  | ccaCnf status | edCnf status | getCnf status | setCnf status =>
    exact .gated (hopen _ _ _ rfl) (confirmAndFinish_marks nofun hquiet rfl rfl)
  | bindU | bindL =>
    exact ((hrefl.of_same (s.bindSlot_events _ _ _ _) (s.bindSlot_ghost _ _ _ _)).complete .none).ends
  | decodeFrame => exact (hrefl.complete _).ends
  | encodeFrame => exact ((hrefl.of_same (u := s.setDsn (s.dsn + 1#8)) rfl rfl).complete _).ends
  | ptqAdd handle kind ack =>
    exact ((hrefl.of_same (ptqAddOp_events ..) (ptqAddOp_ghost handle kind ack s)).complete _).ends
  | ptqRemove handle =>
    exact ((hrefl.of_same ((State.Reaches.refl s).ptqRemove handle).events
      (ptqRemoveOp_ghost handle s)).complete _).ends

end

/-! ## Ghost bits of runs with handlers -/

theorem afterCall_request_ghost {a : OutArgs} {s : State} (hrole : a.role = .request)
    (hslot : s.slot a.inst a.svc a.role ≠ 0#32) : (afterCall a s).ghost = (s.noteForwarded a.svc).ghost := by
  rw [afterCall, if_neg hslot, State.emit_ghost, if_pos hrole, State.noteForwarded_ghost]

theorem duringCall_request_ghost {a : OutArgs} {s : State} (hrole : a.role = .request) :
    (duringCall a s).ghost = (s.noteForwarded a.svc).ghost := by
  rw [duringCall, State.dropReply_ghost, State.emit_ghost, if_pos hrole, State.noteForwarded_ghost]

theorem duringCall_other_ghost {a : OutArgs} {s : State} (hrole : a.role ≠ .request) :
    (duringCall a s).ghost = s.ghost := by
  rw [duringCall, State.dropReply_ghost, State.emit_ghost, if_neg hrole]

theorem handlerReturns_eq_next {reply : Reply} {s t : State} (h : handlerReturns reply s = .next t) :
    s = t := by
  unfold handlerReturns at h
  split at h <;> cases h
  rfl

/-- A SETTRX.cnf whose confirm upward issues nothing leaves SETTRX not in flight. -/
theorem exec_setTrxCnf_ghost {status : Status} {s t : State} (hslot : s.slot .lower .setTrx .confirm ≠ 0#32)
    (hquiet : s.quiet) (h : exec (.setTrxCnf status) s = .next t) :
    t.ghost = { s.ghost with inFlight := s.ghost.inFlight.setBit .setTrx false } := by
  have htracked : (s.trackStatus status).quiet := by rwa [State.quiet, State.trackStatus_env]
  rw [exec_setTrxCnf hslot, confirmAndFinish_quiet htracked] at h
  cases h
  rw [State.complete_ghost, State.endConfirm_ghost, afterCall_ghost (by simp [OutArgs.role])]
  simp [OutArgs.svc]

/-- An internal SETTRX request that the driver confirms inline: tested, forwarded and confirmed. -/
theorem setTrxBody_confirmed_ghost {target status : Status} {s t : State}
    (hcall : setTrxCall target = .setTrxRequest target) (hreq : s.slot .lower .setTrx .request ≠ 0#32)
    (hcnf : s.slot .lower .setTrx .confirm ≠ 0#32) (hreplies : s.env.replies = [confirmsTrx status])
    (h : setTrxBody invokeHandler target s = .next t) :
    t.ghost = { s.ghost with
      inFlight := s.ghost.inFlight.setBit .setTrx false
      doubleIssue := s.ghost.doubleIssue || s.ghost.outstanding .setTrx } := by
  have hnoted := (State.Reaches.refl s).noteRequest .setTrx
  have hduring := hnoted.duringCall (a := .setTrxRequest target) hreq hreplies
  rw [setTrxBody_eq, hcall, hnoted.callIfPresent_reply (a := .setTrxRequest target) hreq hreplies,
    confirmsTrx, runAll_encode rfl] at h
  obtain ⟨m, hm, h⟩ := andThen_eq_next.mp h
  obtain rfl := handlerReturns_eq_next h
  rw [exec_setTrxCnf_ghost (by rwa [hduring.slot]) hduring.replies hm, duringCall_request_ghost rfl]
  simp [OutArgs.svc, Ghost.outstanding]

theorem State.recordTx_ghost (s : State) (q : EncodeRequest) : (s.recordTx q).ghost = s.ghost :=
  ptqAddOp_ghost _ _ _ _

/-- In `TX_ON`, with a driver that issues nothing, DATA.req transmits, and the frame is forwarded (R178). -/
theorem State.Reaches.dataAfterSetTrx_transmits {s t : State} {r : Registers} {e : Env} {es : List Event}
    (h : s.Reaches t r e es) (q : EncodeRequest) (hon : r.trxState = .txOn) (hquiet : e.replies = [])
    (hdata : s.slot .lower .data .request ≠ 0#32) :
    ∃ u now e' es', dataAfterSetTrx invokeHandler q t = .next u ∧ e'.replies = [] ∧
      s.Reaches u (r.recordTx q now) e' es' ∧ u.ghost = (t.noteForwarded .data).ghost := by
  obtain ⟨now, e', -, he', hrecorded⟩ := h.recordTx q
  have hquiet' : (t.recordTx q).quiet := hrecorded.replies.trans (he'.trans hquiet)
  rw [dataAfterSetTrx_forwards (h.trxState.trans hon), callAndFinish_quiet hquiet']
  refine ⟨_, now, e', _, rfl, he'.trans hquiet, (hrecorded.afterCall _).complete .none, ?_⟩
  rw [State.complete_ghost, afterCall_request_ghost rfl (by rwa [hrecorded.slot]), State.noteForwarded_ghost,
    State.recordTx_ghost]
  rfl

/-- A DATA.req that transmits leaves DATA in flight, and SETTRX, which was confirmed, not. -/
theorem exec_dataReq_transmits {q : EncodeRequest} {s : State}
    (hslot : s.slot .upper .data .request ≠ 0#32) (hdriver : s.slot .lower .setTrx .request ≠ 0#32)
    (hcnf : s.slot .lower .setTrx .confirm ≠ 0#32) (hdata : s.slot .lower .data .request ≠ 0#32)
    (hoff : s.trxState = .trxOff) (hlength : q.payload.length ≤ 127)
    (hreplies : s.env.replies = [confirmsTrx Status.txOn]) :
    ∃ t now e es, exec (.dataReq q) s = .next t ∧ e.replies = [] ∧
      s.Reaches t ({ s.registers with trxState := .txOn }.recordTx q now) e es ∧
      t.ghost =
        { inFlight := (s.ghost.inFlight.setBit .setTrx false).setBit .data true
          confirming := s.ghost.confirming
          doubleIssue := s.ghost.doubleIssue || s.ghost.outstanding .data || s.ghost.outstanding .setTrx } := by
  have hnoted := ((State.Reaches.refl s).noteRequest .data).noteRequest .setTrx
  obtain ⟨m, hm, hreach⟩ := hnoted.setTrxBody_confirmed setTrxCall_txOn hdriver hcnf hreplies .quiet
  have hghost := setTrxBody_confirmed_ghost (s := (s.noteRequest .data).noteRequest .setTrx)
    setTrxCall_txOn hdriver hcnf hreplies hm
  obtain ⟨t, now, e, es, ht, he, hend, hforwarded⟩ := hreach.dataAfterSetTrx_transmits q rfl rfl hdata
  refine ⟨t, now, e, es, ?_, he, hend, ?_⟩
  · rw [exec_dataReq_off hslot hoff hlength, hm, andThen_next, ht]
  · rw [hforwarded, State.noteForwarded_ghost, hghost]
    simp [Ghost.outstanding, InFlight.bit_setBit, Bool.or_assoc, Bool.or_comm, Bool.or_left_comm]

/-- A CCA.req in `RX_ON` with a driver that issues nothing is tested and forwarded. -/
theorem exec_ccaReq_forwards {s : State} (hquiet : s.quiet) (hslot : s.slot .upper .cca .request ≠ 0#32)
    (hdriver : s.slot .lower .cca .request ≠ 0#32) (hon : s.trxState = .rxOn) :
    ∃ t, exec .ccaReq s = .next t ∧
      t.ghost = { s.ghost with
        inFlight := s.ghost.inFlight.setBit .cca true
        doubleIssue := s.ghost.doubleIssue || s.ghost.outstanding .cca } := by
  have hquiet' : (s.noteRequest .cca).quiet := hquiet
  rw [exec_ccaReq hslot, if_neg (not_not_intro hon), callAndFinish_quiet hquiet']
  refine ⟨_, rfl, ?_⟩
  rw [State.complete_ghost, afterCall_request_ghost rfl hdriver]
  simp [OutArgs.svc, Ghost.outstanding]

/-- A CCA.req from inside the handler of a CCA.cnf stays in flight. -/
theorem exec_ccaCnf_requestInside {status : Status} {s : State}
    (hslot : s.slot .lower .cca .confirm ≠ 0#32) (hupper : s.slot .upper .cca .confirm ≠ 0#32)
    (hreq : s.slot .upper .cca .request ≠ 0#32) (hdriver : s.slot .lower .cca .request ≠ 0#32)
    (hon : s.trxState = .rxOn)
    (hreplies : s.env.replies = [{ commands := [encode .ccaReq], returns := true }]) :
    ∃ t, exec (.ccaCnf status) s = .next t ∧
      t.ghost = { s.ghost with
        inFlight := s.ghost.inFlight.setBit .cca true
        doubleIssue := s.ghost.doubleIssue || s.ghost.outstanding .cca } := by
  have hbegun := (State.Reaches.refl s).beginConfirm .cca
  have hduring := hbegun.duringCall (a := .ccaConfirm status) hupper hreplies
  obtain ⟨m, hm, hghost⟩ := exec_ccaReq_forwards hduring.replies (by rwa [hduring.slot])
    (by rwa [hduring.slot]) (hduring.trxState.trans hon)
  have hcall : callIfPresent invokeHandler (.ccaConfirm status) (s.beginConfirm .cca) = .next m := by
    rw [hbegun.callIfPresent_reply (a := .ccaConfirm status) hupper hreplies, runAll_encode rfl, hm,
      andThen_next, handlerReturns, if_pos rfl]
  have hexec : exec (.ccaCnf status) s = finish (m.endConfirm .cca (s.ghost.confirming.bit .cca)) :=
    calc exec (.ccaCnf status) s
        = whileConfirming .cca (callIfPresent invokeHandler (.ccaConfirm status)) s := gated_bound hslot
      _ = finish (m.endConfirm .cca (s.ghost.confirming.bit .cca)) := by
        rw [whileConfirming, hcall, andThen_next]
  refine ⟨_, hexec, ?_⟩
  rw [State.complete_ghost, State.endConfirm_ghost, hghost,
    duringCall_other_ghost (a := .ccaConfirm status) nofun,
    State.beginConfirm_outstanding, State.beginConfirm_ghost]
  simp

/-- Settles O53: the quiet commands by `exec_marks` and `exec_closed_marks`, the runs with handlers by the
ghost bits they end in. -/
theorem ghostMarksDoubleIssue : Obligations.GhostMarksDoubleIssue := by
  refine ⟨fun i s hquiet => ?_, fun q s hslot hdriver hcnf hdata hoff hlength hreplies => ?_,
    fun status s hslot hupper hreq hdriver hon hreplies => ?_⟩
  · by_cases hopen : ∀ inst svc role, inboundSlot i = some (inst, svc, role) →
        s.slot inst svc role ≠ 0#32
    · obtain ⟨t, more, ht, hmarks⟩ := exec_marks hquiet hopen
      refine ⟨t, more, ht, hmarks.events, hmarks.confirming, fun svc => ?_, fun _ => hmarks.mark⟩
      have hconfirmed : confirmOf i = some svc ↔
          i.opcode = Opcode.ofConfirm svc ∧ s.slot .lower svc .confirm ≠ 0#32 := by
        rw [← confirmOf_eq_some_iff, iff_self_and]
        exact fun h => hopen _ _ _ (inboundSlot_of_confirmOf h)
      rw [hmarks.inFlight, decide_eq_decide.mpr hconfirmed]
    · push Not at hopen
      obtain ⟨inst, svc, role, hslot, hnull⟩ := hopen
      obtain ⟨t, more, ht, hmarks⟩ := exec_closed_marks hslot hnull
      refine ⟨t, more, ht, hmarks.events, hmarks.confirming, fun svc' => ?_,
        fun hbound => absurd hnull (hbound _ _ _ hslot)⟩
      have hnotConfirmed : ¬ (i.opcode = Opcode.ofConfirm svc' ∧ s.slot .lower svc' .confirm ≠ 0#32) := by
        rintro ⟨hopcode, hbound⟩
        have hlower := inboundSlot_of_confirmOf (confirmOf_eq_some_iff.mpr hopcode)
        rw [hlower] at hslot
        cases hslot
        exact hbound hnull
      rw [hmarks.inFlight, decide_eq_false hnotConfirmed]
      rfl
  · obtain ⟨t, -, -, -, ht, -, -, hghost⟩ :=
      exec_dataReq_transmits hslot hdriver hcnf hdata hoff hlength hreplies
    exact ⟨t, ht, by simp [hghost, InFlight.bit_setBit]⟩
  · obtain ⟨t, ht, hghost⟩ := exec_ccaCnf_requestInside hslot hupper hreq hdriver hon hreplies
    exact ⟨t, ht, by simp [hghost, InFlight.bit_setBit]⟩

/-! ## No forwarded request escapes the mark -/

/-- The commands of a handler keep the surroundings, whatever the handlers they call do. -/
theorem runAll_keepsSurroundings {cs : List Octets} {s t : State} (h : runAll exec cs s = .next t) :
    KeepsSurroundings s t :=
  have hkeeps (i : Instr) : Keeps (KeepsSurroundings s) (exec i) :=
    fun _ _ => exec_keeps (KeepsSurroundings.closed s) rfl (Env.avoids_nothing _)
  runAll_keeps (KeepsSurroundings.closed s) (fun i _ => hkeeps i) cs (fun _ _ _ _ _ => rfl) s t
    (KeepsSurroundings.refl s) h

/-- The Call sets the mark when it forwards the Request, and its handler's commands do not clear it. -/
theorem callIfPresent_marks {a : OutArgs} {s t : State} (hrole : a.role = .request)
    (hslot : s.slot a.inst a.svc a.role ≠ 0#32) (hout : s.ghost.outstanding a.svc = true)
    (h : callIfPresent invokeHandler a s = .next t) : t.ghost.doubleIssue = true := by
  have hforwarded : (s.noteForwarded a.svc).ghost.doubleIssue = true := by
    rw [State.noteForwarded_ghost, hout, Bool.or_true]
  cases hreplies : s.env.replies with
  | nil =>
    rw [callIfPresent_quiet hreplies] at h
    cases h
    rwa [afterCall_request_ghost hrole hslot]
  | cons reply rest =>
    rw [callIfPresent_cons hslot hreplies] at h
    obtain ⟨m, hm, h⟩ := andThen_eq_next.mp h
    obtain rfl := handlerReturns_eq_next h
    refine (runAll_keepsSurroundings hm).mark ?_
    rwa [← duringCall_request_ghost hrole] at hforwarded

theorem runAll_encode_cons {i : Instr} (hwf : i.wellFormed = true) (cs : List Octets) (s : State) :
    runAll exec (encode i :: cs) s = Result.andThen (exec i s) (runAll exec cs) := by
  have hdecode : decode (encode i) = .ok (i, []) := by
    rw [← commandRoundTrip i [] hwf, List.append_nil]
  exact runAll_cons hdecode s

/-- A driver that reports TRX_OFF and lets another DATA.req run, which transmits: what its commands leave,
with DATA in flight. -/
theorem State.Reaches.runAll_transmitsInside {s m : State} {r : Registers} {e : Env} {es : List Event}
    (h : s.Reaches m r e es) {inner : EncodeRequest}
    (hslot : s.slot .upper .data .request ≠ 0#32) (hdriver : s.slot .lower .setTrx .request ≠ 0#32)
    (hcnf : s.slot .lower .setTrx .confirm ≠ 0#32) (hdata : s.slot .lower .data .request ≠ 0#32)
    (hupper : s.slot .upper .setTrx .confirm = 0#32) (hlength : inner.payload.length ≤ 127)
    (hreplies : e.replies = [confirmsTrx Status.txOn]) :
    ∃ t, runAll exec [encode (.setTrxCnf Status.trxOff), encode (.dataReq inner)] m = .next t ∧
      t.quiet ∧ t.trxState = .txOn ∧ t.dsn = r.dsn + 1#8 ∧ t.upper = s.upper ∧ t.lower = s.lower ∧
      t.ghost.inFlight.bit .data = true := by
  have hwf : (Instr.dataReq inner).wellFormed = true := decide_eq_true (Nat.le_trans hlength (by decide))
  obtain ⟨m', hm', hreported⟩ := h.exec_setTrxCnf (status := Status.trxOff) hcnf (.null _ hupper)
  have hregisters : r.track Status.trxOff = { r with trxState := .trxOff } := r.track_code .trxOff
  rw [hregisters] at hreported
  obtain ⟨t, now, e', es', ht, he', hend, hghost⟩ := exec_dataReq_transmits (q := inner) (s := m')
    (by rwa [hreported.slot]) (by rwa [hreported.slot]) (by rwa [hreported.slot]) (by rwa [hreported.slot])
    hreported.trxState hlength (hreported.replies.trans hreplies)
  refine ⟨t, ?_, hend.replies.trans he', hend.trxState, ?_, hend.upper_eq.trans hreported.upper_eq,
    hend.lower_eq.trans hreported.lower_eq, by simp [hghost, InFlight.bit_setBit]⟩
  · rw [runAll_encode_cons rfl, hm', andThen_next, runAll_encode hwf, ht]
  · rw [hend.dsn, ← hreported.dsn]
    rfl

/-- Settles O56: the Call is `callIfPresent_marks`; in the run the outer DATA.req forwards its frame when the
inner one has DATA in flight. -/
theorem forwardedWhileInFlightIsMarked : Obligations.ForwardedWhileInFlightIsMarked := by
  refine ⟨fun a s hrole hslot hout t => callIfPresent_marks hrole hslot hout, ?_⟩
  intro q inner s hslot hdriver hcnf hdata hupper hoff hlength hinner hreplies
  have hnoted := (((State.Reaches.refl s).noteRequest .data).noteRequest .setTrx).noteRequest .setTrx
  have hduring := hnoted.duringCall (a := .setTrxRequest Status.txOn) hdriver hreplies
  obtain ⟨m, hm, hquiet, hon, hdsn, hup, hlow, hbit⟩ :=
    hduring.runAll_transmitsInside hslot hdriver hcnf hdata hupper hinner rfl
  have hslots := State.slot_of_registries hup hlow
  obtain ⟨t, now, e, es, ht, -, hend, hghost⟩ :=
    (State.Reaches.refl m).dataAfterSetTrx_transmits q hon hquiet (by rwa [hslots])
  refine ⟨t, ?_, hend.trxState.trans hon, ?_, hend.txHandle, ?_, ?_⟩
  · rw [exec_dataReq_off hslot hoff hlength, setTrxBody_eq, setTrxCall_txOn,
      hnoted.callIfPresent_reply (a := .setTrxRequest Status.txOn) hdriver hreplies, hm, andThen_next,
      handlerReturns, if_pos rfl, andThen_next, ht]
  · rw [hend.dsn, Registers.recordTx, show m.registers.dsn = s.dsn + 1#8 from hdsn, BitVec.add_assoc]
    rfl
  · simp [hghost, InFlight.bit_setBit]
  · simp [hghost, Ghost.outstanding, hbit]

end Machine
end Sys2Proof
end
